-- ==== Sys2Proof/Word.lean ====
section
/-! DEFINITION. The 16-bit word of the machine and the conversions of 00_scope.md R8 and R9.

Every cell, register, stack slot, operand field and record word is an `i16` (R8). It is held as its 16-bit pattern:
`v.toInt` is the signed value of R8 and `v.toNat` is the pattern `u16(v)` of R9. A value that is in no cell (a resolved
operand, an address, a label index) is an exact integer (R8: "on unbounded mathematical integers"). -/

namespace Sys2Proof

/-- A 16-bit two's-complement cell value (00_scope.md R6 `W`, R8). -/
abbrev Word := BitVec 16

/-- `wrap16` of 00_scope.md R8: an exact integer brought back to `i16`. -/
def wrap16 (x : Int) : Word := BitVec.ofInt 16 x

/-- `u16` of 00_scope.md R9: the 16-bit pattern of an exact integer, taken modulo 65536. -/
def u16 (v : Int) : Word := BitVec.ofInt 16 v

/-- `s16` of 00_scope.md R9, for a pattern given as a natural number (taken modulo 65536). -/
def s16 (p : Nat) : Word := BitVec.ofNat 16 p

end Sys2Proof
end

