-- ==== Sys2Proof/Syntax.lean ====
section
/-! DEFINITION. The instructions, whole: the record of 30_encoding.md R110, the operand descriptors of R111 to R113, the
opcode map's names (R120) and one constructor of `Instr` per row of the opcode table. -/

namespace Sys2Proof

/-- The type `t` of a field, bits 2:0 of its nibble (30_encoding.md R113). The eight values are kept apart, so that a
reserved nibble survives decoding (R124 gives it its meaning when the record executes). -/
inductive FieldType where
  /-- `t = 0`: the field is a literal. -/
  | literal
  /-- `t = 1`: `indirect_one`, the field is an address. -/
  | indirectOne
  /-- `t = 2`: `is_numeric_jump`, the field is a numeric label index. -/
  | numericJump
  /-- `t = 3`: reserved. -/
  | reserved3
  /-- `t = 4`: `is_symbolic_jump`, the field is a symbolic label index. -/
  | symbolicJump
  /-- `t = 5`: reserved. -/
  | reserved5
  /-- `t = 6`: reserved. -/
  | reserved6
  /-- `t = 7`: reserved. -/
  | reserved7
deriving DecidableEq, Repr, Inhabited

/-- An operand descriptor (30_encoding.md R111): the field's word with the flags of its nibble. -/
structure Operand where
  /-- The field word: a value, an address or a label index, as the flags say. -/
  value : Word
  /-- Bits 2:0 of the nibble. -/
  type : FieldType
  /-- Bit 3 of the nibble, `indirect_two`. -/
  indirectTwo : Bool
deriving DecidableEq, Repr, Inhabited

/-- One instruction record (30_encoding.md R110): the only format and the only length. -/
structure Record where
  /-- `w0`, the opcode field. -/
  w0 : Word
  /-- `w1`, the modifier word. -/
  w1 : Word
  /-- `w2`, operand A. -/
  w2 : Word
  /-- `w3`, operand B. -/
  w3 : Word
deriving DecidableEq, Repr, Inhabited

/-- The implicit trailing NOP `(0, 0, 0, 0)` of 20_memory.md R80 and 30_encoding.md R133. -/
def Record.nop : Record := ⟨0, 0, 0, 0⟩

/-- The 47 opcodes of 30_encoding.md R120, by their primary mnemonics, in the order of their numbers. -/
inductive Opcode where
  | nop | add | sub | or | and | xor | not | mpy | div | mod
  | ret | call | jmp | jls | jgr | jne | jeq | xchg | doCx | loop
  | cmp | test | mov | loc | get | put | int | ipo | opo | delay
  | push | pop | err | inc | dec | shl | shr | rol | ror | jz
  | jnz | jae | jbe | sal | sar | neg | jtl
deriving DecidableEq, Repr, Inhabited

/-- An instruction: one constructor per row of spec/opcode_table.json, with the operands its row uses (30_encoding.md
R120, R121). An unused field has no effect (R124) and is not part of the instruction. -/
inductive Instr where
  /-- NOP, 46_system_io.md R360. -/
  | nop
  /-- ADD, 41_arithmetic.md R200. -/
  | add (dA dB : Operand)
  /-- SUB, 41_arithmetic.md R201. -/
  | sub (dA dB : Operand)
  /-- OR, 42_bitwise_shift.md R230. -/
  | or (dA dB : Operand)
  /-- AND, 42_bitwise_shift.md R231. -/
  | and (dA dB : Operand)
  /-- XOR, 42_bitwise_shift.md R232. -/
  | xor (dA dB : Operand)
  /-- NOT, 42_bitwise_shift.md R233. -/
  | not (dA : Operand)
  /-- MPY, 41_arithmetic.md R202. -/
  | mpy (dA dB : Operand)
  /-- DIV, 41_arithmetic.md R203. -/
  | div (dA dB : Operand)
  /-- MOD, 41_arithmetic.md R204. -/
  | mod (dA dB : Operand)
  /-- RET, 44_subroutine_loop_stack.md R301. -/
  | ret
  /-- CALL, 44_subroutine_loop_stack.md R300. -/
  | call (dA : Operand)
  /-- JMP, 43_compare_jump.md R264. -/
  | jmp (dA : Operand)
  /-- JLS, 43_compare_jump.md R266. -/
  | jls (dA : Operand)
  /-- JGR, 43_compare_jump.md R267. -/
  | jgr (dA : Operand)
  /-- JNE, 43_compare_jump.md R268. -/
  | jne (dA : Operand)
  /-- JEQ, 43_compare_jump.md R269. -/
  | jeq (dA : Operand)
  /-- XCHG, 45_move.md R331. -/
  | xchg (dA dB : Operand)
  /-- DO, 44_subroutine_loop_stack.md R304. -/
  | doCx (dA : Operand)
  /-- LOOP, 44_subroutine_loop_stack.md R305. -/
  | loop (dA : Operand)
  /-- CMP, 43_compare_jump.md R260. -/
  | cmp (dA dB : Operand)
  /-- TEST, 43_compare_jump.md R261. -/
  | test (dA dB : Operand)
  /-- MOV, 45_move.md R330. -/
  | mov (dA dB : Operand)
  /-- LOC, 45_move.md R332. -/
  | loc (dA dB : Operand)
  /-- GET, 45_move.md R333. -/
  | get (dA dB : Operand)
  /-- PUT, 45_move.md R334. -/
  | put (dA dB : Operand)
  /-- INT, 46_system_io.md R364. -/
  | int (dA : Operand)
  /-- IPO, 46_system_io.md R366. -/
  | ipo (dA dB : Operand)
  /-- OPO, 46_system_io.md R367. -/
  | opo (dA dB : Operand)
  /-- DELAY, 46_system_io.md R361. -/
  | delay (dA : Operand)
  /-- PUSH, 44_subroutine_loop_stack.md R302. -/
  | push (dA : Operand)
  /-- POP, 44_subroutine_loop_stack.md R303. -/
  | pop (dA : Operand)
  /-- ERR, 46_system_io.md R362. -/
  | err (dA : Operand)
  /-- INC, 41_arithmetic.md R205. -/
  | inc (dA : Operand)
  /-- DEC, 41_arithmetic.md R206. -/
  | dec (dA : Operand)
  /-- SHL, 42_bitwise_shift.md R234. -/
  | shl (dA dB : Operand)
  /-- SHR, 42_bitwise_shift.md R235. -/
  | shr (dA dB : Operand)
  /-- ROL, 42_bitwise_shift.md R236. -/
  | rol (dA dB : Operand)
  /-- ROR, 42_bitwise_shift.md R237. -/
  | ror (dA dB : Operand)
  /-- JZ, 43_compare_jump.md R270. -/
  | jz (dA : Operand)
  /-- JNZ, 43_compare_jump.md R271. -/
  | jnz (dA : Operand)
  /-- JAE, 43_compare_jump.md R272. -/
  | jae (dA : Operand)
  /-- JBE, 43_compare_jump.md R273. -/
  | jbe (dA : Operand)
  /-- SAL, 42_bitwise_shift.md R238. -/
  | sal (dA dB : Operand)
  /-- SAR, 42_bitwise_shift.md R239. -/
  | sar (dA dB : Operand)
  /-- NEG, 41_arithmetic.md R207. -/
  | neg (dA : Operand)
  /-- JTL, 43_compare_jump.md R265. -/
  | jtl (dA : Operand)
  /-- The numeric label marker `:N` (30_encoding.md R123): `index` is its `w0`, `indirectTwo` its ignored `x` bit. -/
  | numericLabel (index : Word) (indirectTwo : Bool)
  /-- The symbolic label marker `!name` (30_encoding.md R123): `index` is its `w0`, `indirectTwo` its ignored `x` bit. -/
  | symbolicLabel (index : Word) (indirectTwo : Bool)
deriving DecidableEq, Repr, Inhabited

end Sys2Proof
end

