-- ==== Sys2Proof/Decode.lean ====
section
/-! DEFINITION. The decoder of 30_encoding.md, and after it the encoder, both written from the tables of R112, R113 and
R120; `is_data` of R117; and the reading of a word numbered as spec/opcode_table.json numbers it. -/

namespace Sys2Proof

/-! ### Fields and descriptors -/

/-- The type of a field from bits 2:0 of its nibble (30_encoding.md R113). -/
def FieldType.ofBits (t : BitVec 3) : FieldType :=
  match t.toNat with
  | 0 => .literal
  | 1 => .indirectOne
  | 2 => .numericJump
  | 3 => .reserved3
  | 4 => .symbolicJump
  | 5 => .reserved5
  | 6 => .reserved6
  | _ => .reserved7

/-- Bits 2:0 of the nibble of a field of this type: the inverse of `FieldType.ofBits`. -/
def FieldType.bits : FieldType → BitVec 3
  | .literal => 0
  | .indirectOne => 1
  | .numericJump => 2
  | .reserved3 => 3
  | .symbolicJump => 4
  | .reserved5 => 5
  | .reserved6 => 6
  | .reserved7 => 7

/-- The types that set none of the descriptor's flags (30_encoding.md R113, R124: `t` in 3, 5, 6, 7). -/
def FieldType.isReserved : FieldType → Bool
  | .reserved3 | .reserved5 | .reserved6 | .reserved7 => true
  | .literal | .indirectOne | .numericJump | .symbolicJump => false

/-- The jump kind of a descriptor (30_encoding.md R115). -/
inductive JumpKind where
  /-- No jump flag. -/
  | none
  /-- `is_numeric_jump`: an index into `NUM_TABLE`. -/
  | numeric
  /-- `is_symbolic_jump`: an index into `ALNUM_TABLE`. -/
  | symbolic
deriving DecidableEq, Repr

/-- The jump kind a field type sets (30_encoding.md R115). -/
def FieldType.jumpKind : FieldType → JumpKind
  | .numericJump => .numeric
  | .symbolicJump => .symbolic
  | .literal | .indirectOne | .reserved3 | .reserved5 | .reserved6 | .reserved7 => .none

/-- The indirection level of a descriptor, 0, 1 or 2: `indirect_one` plus `indirect_two` (30_encoding.md R114). -/
def Operand.level (d : Operand) : Nat :=
  (if d.type = .indirectOne then 1 else 0) + (if d.indirectTwo then 1 else 0)

/-- The jump kind of a descriptor (30_encoding.md R115). -/
def Operand.jumpKind (d : Operand) : JumpKind := d.type.jumpKind

/-- The descriptor's nibble is reserved (30_encoding.md R124). -/
def Operand.isReserved (d : Operand) : Bool := d.type.isReserved

/-- The descriptor of a field word and its nibble (30_encoding.md R111 to R113). -/
def Operand.ofNibble (value : Word) (nibble : BitVec 4) : Operand :=
  ⟨value, FieldType.ofBits (nibble.extractLsb' 0 3), nibble.getLsbD 3⟩

/-- The nibble of a descriptor: the inverse of `Operand.ofNibble`. -/
def Operand.nibble (d : Operand) : BitVec 4 := BitVec.ofBool d.indirectTwo ++ d.type.bits

/-- What the encoder writes for a field the opcode does not use: word 0, nibble 0 (30_encoding.md R127). -/
def Operand.unused : Operand := ⟨0, .literal, false⟩

/-- The descriptor of the opcode field: `w0` with nibble 0, bits 3:0 of `w1` (30_encoding.md R111, R112). -/
def Record.opField (r : Record) : Operand := .ofNibble r.w0 (r.w1.extractLsb' 0 4)

/-- The descriptor of operand A: `w2` with nibble 1, bits 7:4 of `w1` (30_encoding.md R111, R112). -/
def Record.opA (r : Record) : Operand := .ofNibble r.w2 (r.w1.extractLsb' 4 4)

/-- The descriptor of operand B: `w3` with nibble 2, bits 11:8 of `w1` (30_encoding.md R111, R112). -/
def Record.opB (r : Record) : Operand := .ofNibble r.w3 (r.w1.extractLsb' 8 4)

/-- The record of three descriptors, with the unused bits 15:12 of the modifier word 0 (30_encoding.md R110: the inverse
of the three descriptors of a record). -/
def Record.ofDescriptors (d0 dA dB : Operand) : Record :=
  ⟨d0.value, (0 : BitVec 4) ++ dB.nibble ++ dA.nibble ++ d0.nibble, dA.value, dB.value⟩

/-- Word `k` of a record, in the order of 20_memory.md R74: opcode, modifier, A, B. -/
def Record.word (r : Record) (k : Nat) : Word :=
  match k with
  | 0 => r.w0
  | 1 => r.w1
  | 2 => r.w2
  | _ => r.w3

/-! ### The opcode map -/

/-- The number of an opcode (30_encoding.md R120). -/
def Opcode.number : Opcode → Nat
  | .nop => 0
  | .add => 1
  | .sub => 2
  | .or => 3
  | .and => 4
  | .xor => 5
  | .not => 6
  | .mpy => 7
  | .div => 8
  | .mod => 9
  | .ret => 10
  | .call => 11
  | .jmp => 12
  | .jls => 13
  | .jgr => 14
  | .jne => 15
  | .jeq => 16
  | .xchg => 17
  | .doCx => 18
  | .loop => 19
  | .cmp => 20
  | .test => 21
  | .mov => 22
  | .loc => 23
  | .get => 24
  | .put => 25
  | .int => 26
  | .ipo => 27
  | .opo => 28
  | .delay => 29
  | .push => 30
  | .pop => 31
  | .err => 32
  | .inc => 33
  | .dec => 34
  | .shl => 35
  | .shr => 36
  | .rol => 37
  | .ror => 38
  | .jz => 39
  | .jnz => 40
  | .jae => 41
  | .jbe => 42
  | .sal => 43
  | .sar => 44
  | .neg => 45
  | .jtl => 46

/-- The opcodes in the order of their numbers 0 to 46 (30_encoding.md R120). -/
def Opcode.table : List Opcode :=
  [.nop, .add, .sub, .or, .and, .xor, .not, .mpy, .div, .mod, .ret, .call, .jmp, .jls, .jgr, .jne, .jeq,
   .xchg, .doCx, .loop, .cmp, .test, .mov, .loc, .get, .put, .int, .ipo, .opo, .delay, .push, .pop, .err,
   .inc, .dec, .shl, .shr, .rol, .ror, .jz, .jnz, .jae, .jbe, .sal, .sar, .neg, .jtl]

/-- The opcode of a resolved opcode number, a full `i16` (30_encoding.md R119); none outside 0 to 46 (R122). -/
def Opcode.ofNumber (n : Int) : Option Opcode := if n < 0 then none else Opcode.table[n.toNat]?

/-- The instruction of an opcode and the two operand descriptors: the fields the opcode does not use are dropped
(30_encoding.md R121, R124). -/
def Opcode.instr (opc : Opcode) (dA dB : Operand) : Instr :=
  match opc with
  | .nop => .nop
  | .add => .add dA dB
  | .sub => .sub dA dB
  | .or => .or dA dB
  | .and => .and dA dB
  | .xor => .xor dA dB
  | .not => .not dA
  | .mpy => .mpy dA dB
  | .div => .div dA dB
  | .mod => .mod dA dB
  | .ret => .ret
  | .call => .call dA
  | .jmp => .jmp dA
  | .jls => .jls dA
  | .jgr => .jgr dA
  | .jne => .jne dA
  | .jeq => .jeq dA
  | .xchg => .xchg dA dB
  | .doCx => .doCx dA
  | .loop => .loop dA
  | .cmp => .cmp dA dB
  | .test => .test dA dB
  | .mov => .mov dA dB
  | .loc => .loc dA dB
  | .get => .get dA dB
  | .put => .put dA dB
  | .int => .int dA
  | .ipo => .ipo dA dB
  | .opo => .opo dA dB
  | .delay => .delay dA
  | .push => .push dA
  | .pop => .pop dA
  | .err => .err dA
  | .inc => .inc dA
  | .dec => .dec dA
  | .shl => .shl dA dB
  | .shr => .shr dA dB
  | .rol => .rol dA dB
  | .ror => .ror dA dB
  | .jz => .jz dA
  | .jnz => .jnz dA
  | .jae => .jae dA
  | .jbe => .jbe dA
  | .sal => .sal dA dB
  | .sar => .sar dA dB
  | .neg => .neg dA
  | .jtl => .jtl dA

/-! ### The decoder -/

/-- Why a record is rejected before any memory is read (40_execution_cycle.md R156, R158). -/
inductive DecodeReject where
  /-- The opcode nibble is reserved (R156); carries `w0`. -/
  | reservedOpcodeNibble (w0 : Word)
  /-- The opcode number is outside 0 to 46 (R158); carries the number. -/
  | unknownOpcode (opc : Word)
deriving DecidableEq, Repr

/-- What the decoder reads from a record (30_encoding.md R126). -/
inductive Decoded where
  /-- The record's own bits name its instruction (a label marker, or an opcode field at level 0). -/
  | instr (i : Instr)
  /-- The opcode field is at level 1 or 2: its number is in memory (40_execution_cycle.md R157). -/
  | opcodeInMemory (d0 dA dB : Operand)
  /-- No instruction: rejected by name. -/
  | reject (why : DecodeReject)
deriving DecidableEq, Repr

/-- The instruction an opcode number names with these operands, or its rejection (30_encoding.md R119, R122). -/
def decodeNumber (opc : Word) (dA dB : Operand) : Decoded :=
  match Opcode.ofNumber opc.toInt with
  | some o => .instr (o.instr dA dB)
  | none => .reject (.unknownOpcode opc)

/-- The decoder, total on any four words (30_encoding.md R119, R122 to R124, R126). -/
def decode (r : Record) : Decoded :=
  match r.opField.type with
  | .numericJump => .instr (.numericLabel r.w0 r.opField.indirectTwo)
  | .symbolicJump => .instr (.symbolicLabel r.w0 r.opField.indirectTwo)
  | .reserved3 | .reserved5 | .reserved6 | .reserved7 => .reject (.reservedOpcodeNibble r.w0)
  | .literal | .indirectOne =>
    match r.opField.level with
    | 0 => decodeNumber r.w0 r.opA r.opB
    | _ => .opcodeInMemory r.opField r.opA r.opB

/-! ### The encoder -/

/-- The record of an opcode at level 0 with two operand descriptors. -/
def pack (opc : Opcode) (dA dB : Operand) : Record :=
  Record.ofDescriptors ⟨BitVec.ofNat 16 opc.number, .literal, false⟩ dA dB

/-- The record of an instruction, its opcode number in the opcode field (30_encoding.md R110, R112, R113, R120); a label
marker's record is that of R131. -/
def encode : Instr → Record
  | .nop => pack .nop .unused .unused
  | .add dA dB => pack .add dA dB
  | .sub dA dB => pack .sub dA dB
  | .or dA dB => pack .or dA dB
  | .and dA dB => pack .and dA dB
  | .xor dA dB => pack .xor dA dB
  | .not dA => pack .not dA .unused
  | .mpy dA dB => pack .mpy dA dB
  | .div dA dB => pack .div dA dB
  | .mod dA dB => pack .mod dA dB
  | .ret => pack .ret .unused .unused
  | .call dA => pack .call dA .unused
  | .jmp dA => pack .jmp dA .unused
  | .jls dA => pack .jls dA .unused
  | .jgr dA => pack .jgr dA .unused
  | .jne dA => pack .jne dA .unused
  | .jeq dA => pack .jeq dA .unused
  | .xchg dA dB => pack .xchg dA dB
  | .doCx dA => pack .doCx dA .unused
  | .loop dA => pack .loop dA .unused
  | .cmp dA dB => pack .cmp dA dB
  | .test dA dB => pack .test dA dB
  | .mov dA dB => pack .mov dA dB
  | .loc dA dB => pack .loc dA dB
  | .get dA dB => pack .get dA dB
  | .put dA dB => pack .put dA dB
  | .int dA => pack .int dA .unused
  | .ipo dA dB => pack .ipo dA dB
  | .opo dA dB => pack .opo dA dB
  | .delay dA => pack .delay dA .unused
  | .push dA => pack .push dA .unused
  | .pop dA => pack .pop dA .unused
  | .err dA => pack .err dA .unused
  | .inc dA => pack .inc dA .unused
  | .dec dA => pack .dec dA .unused
  | .shl dA dB => pack .shl dA dB
  | .shr dA dB => pack .shr dA dB
  | .rol dA dB => pack .rol dA dB
  | .ror dA dB => pack .ror dA dB
  | .jz dA => pack .jz dA .unused
  | .jnz dA => pack .jnz dA .unused
  | .jae dA => pack .jae dA .unused
  | .jbe dA => pack .jbe dA .unused
  | .sal dA dB => pack .sal dA dB
  | .sar dA dB => pack .sar dA dB
  | .neg dA => pack .neg dA .unused
  | .jtl dA => pack .jtl dA .unused
  | .numericLabel index x => Record.ofDescriptors ⟨index, .numericJump, x⟩ .unused .unused
  | .symbolicLabel index x => Record.ofDescriptors ⟨index, .symbolicJump, x⟩ .unused .unused

/-! ### `is_data` -/

/-- The type bits the settable flags of a descriptor give back: a reserved type sets no flag, so it gives 0
(30_encoding.md R113, R117). -/
def FieldType.flagBits (t : FieldType) : BitVec 3 := if t.isReserved then 0 else t.bits

/-- The modifier word re-encoded from the flags of the three descriptors, unused bits 0 (30_encoding.md R117). -/
def Record.reencodedModifier (r : Record) : Word :=
  (0 : BitVec 4) ++ (BitVec.ofBool r.opB.indirectTwo ++ r.opB.type.flagBits)
    ++ (BitVec.ofBool r.opA.indirectTwo ++ r.opA.type.flagBits)
    ++ (BitVec.ofBool r.opField.indirectTwo ++ r.opField.type.flagBits)

/-- `is_data(record)` (30_encoding.md R117): the re-encoded modifier disagrees with the stored one, or the opcode carries
a jump flag together with an indirection flag. No execution rule reads it. -/
def Record.isData (r : Record) : Bool :=
  r.reencodedModifier != r.w1 || (r.opField.jumpKind != .none && r.opField.level != 0)

/-! ### Words numbered as the opcode table numbers them -/

/-- The record a table row's bits stand for, every bit above `nbits` 0. The rows of the 47 opcodes number their 16 bits
from bit 0 of `w0`. The rows of the two label markers give 3 bits, so one byte, and their match and mask "apply to w1"
(spec/opcode_table.json, `source_fields`), so a row of at most 8 bits is numbered from bit 0 of `w1`. DESIGN CHOICE,
notes/assumptions/13.md. -/
def recordOfTableWord (nbits w : Nat) : Record :=
  let p := w % 2 ^ nbits
  if nbits ≤ 8 then ⟨0, BitVec.ofNat 16 p, 0, 0⟩
  else ⟨BitVec.ofNat 16 p, BitVec.ofNat 16 (p / 2 ^ 16), BitVec.ofNat 16 (p / 2 ^ 32), BitVec.ofNat 16 (p / 2 ^ 48)⟩

/-- The instruction the decoder reads from a word numbered as spec/opcode_table.json numbers it; none where the record
names no instruction by its own bits. -/
def decodeTableWord (nbits w : Nat) : Option Instr :=
  match decode (recordOfTableWord nbits w) with
  | .instr i => some i
  | .opcodeInMemory _ _ _ => none
  | .reject _ => none

end Sys2Proof
end

