-- ==== Sys2Proof/Config.lean ====
section
/-! DEFINITION. What an implementation fixes (the OPEN parameters of 00_scope.md R6), the types of the host's answers
(00_scope.md R15), and the free values of the model (constants without a body: nothing can be proved of their value). -/

namespace Sys2Proof

/-! ### The OPEN parameters -/

/-- The direction of a port (20_memory.md R82). -/
inductive PortDir where
  /-- Read with IPO. -/
  | input
  /-- Written with OPO. -/
  | output
  /-- In and out. -/
  | both
deriving DecidableEq, Repr, Inhabited

/-- `RET_LINK` (00_scope.md R6, 44_subroutine_loop_stack.md R300): what CALL pushes and where RET resumes. -/
inductive RetLink where
  /-- CALL pushes its own index, RET resumes at the record after it. -/
  | selfIndex
  /-- CALL pushes the fall-through index, RET resumes at the popped index. -/
  | nextIndex
deriving DecidableEq, Repr, Inhabited

/-- `ERROR_POLICY` (60_exceptions.md R406). -/
inductive ErrorPolicy where
  /-- A fault ends the turn. -/
  | stopTurn
  /-- The wrapper goes on stepping. -/
  | continueOn
deriving DecidableEq, Repr, Inhabited

/-- The quantities the document names for the shadow cells (10_state.md R37). -/
inductive ShadowQuantity where
  | desiredThrottle | desiredHeading | turretOffset | lastScanAccuracy | lastTargetId | lastTargetHeading
  | lastTargetThrottle | collisionCount | odometer | commQueueHead | commQueueTail | lastTargetSpeed
deriving DecidableEq, Repr, Inhabited

/-- `SHADOW_MAP` (00_scope.md R6, 10_state.md R37): which quantity each shadow cell holds, none where it is unknown. -/
structure ShadowMap where
  /-- Cell 8. -/
  c8 : Option ShadowQuantity
  /-- Cell 9. -/
  c9 : Option ShadowQuantity
  /-- Cell 10. -/
  c10 : Option ShadowQuantity
  /-- Cell 11. -/
  c11 : Option ShadowQuantity
  /-- Cell 12. -/
  c12 : Option ShadowQuantity
  /-- Cell 13. -/
  c13 : Option ShadowQuantity
deriving DecidableEq, Repr, Inhabited

/-- The OPEN parameters of 00_scope.md R6, as plain data, so that a claim about every state holds for every value of
them (R7). `PENALTY`, a function of the opcode and the resolved argument, is two finite tables over the document's default
(40_execution_cycle.md R174): an instruction can only meet finitely many arguments, so the tables give every such function
(`exists_params_of_cost` in Laws/Penalty.lean; notes/assumptions/9.md). -/
structure Params where
  /-- `STACK_SIZE` (10_state.md R39). -/
  stackSize : Nat
  /-- `PENALTY`: the cost of an opcode with a resolved argument, `INT_PENALTY` and `PORT_PENALTY` among it. -/
  argCost : List ((Opcode × Int) × Nat)
  /-- `PENALTY`: the cost of an opcode where `argCost` has no entry. -/
  opcodeCost : List (Opcode × Nat)
  /-- `PORT_TABLE` (20_memory.md R82). -/
  portTable : List (Int × PortDir)
  /-- `INT_TABLE` (60_exceptions.md R411). -/
  intTable : List Int
  /-- `SOFT_RESET_INT` (60_exceptions.md R413). -/
  softResetInt : Int
  /-- `SHADOW_MAP` (10_state.md R37): a name for each shadow cell, which no rule of the engine reads
  (notes/assumptions/14.md). -/
  shadowMap : ShadowMap
  /-- `RET_LINK` (44_subroutine_loop_stack.md R300). -/
  retLink : RetLink
  /-- `ERROR_POLICY` (60_exceptions.md R406). -/
  errorPolicy : ErrorPolicy
deriving DecidableEq, Repr, Inhabited

/-! ### The host's answers -/

/-- The host-reportable runtime errors (60_exceptions.md R402: codes 12, 13, 14, 15 and 18). -/
inductive HostError where
  /-- Code 12. -/
  | queueEmpty
  /-- Code 13. -/
  | noMineLayer
  /-- Code 14. -/
  | noMinesLeft
  /-- Code 15. -/
  | noShield
  /-- Code 18. -/
  | inputOutOfBounds
deriving DecidableEq, Repr, Inhabited

/-- An answer `Ok v | Err k` of the host (46_system_io.md R368, R369, 60_exceptions.md R412). -/
inductive HostReply (α : Type) where
  /-- `Ok`. -/
  | ok (value : α)
  /-- `Err k`. -/
  | err (kind : HostError)
deriving DecidableEq, Repr, Inhabited

/-- The six values `Host.shadow` supplies for cells 8 to 13 (40_execution_cycle.md R154). -/
structure Shadow where
  /-- Cell 8. -/
  c8 : Word
  /-- Cell 9. -/
  c9 : Word
  /-- Cell 10. -/
  c10 : Word
  /-- Cell 11. -/
  c11 : Word
  /-- Cell 12. -/
  c12 : Word
  /-- Cell 13. -/
  c13 : Word
deriving DecidableEq, Repr, Inhabited

/-- The host's answers to the calls of one step (00_scope.md R15): a step asks `Host.disabled` once, `Host.shadow` at most
once, `Host.shuntRead` at each shunt read, and at most one of the other three (40_execution_cycle.md R179). -/
structure HostAnswers where
  /-- The answer to `Host.disabled` (40_execution_cycle.md R151). -/
  disabled : Bool
  /-- The answer to `Host.shadow` (40_execution_cycle.md R154). -/
  shadow : Shadow
  /-- The answers to the step's `Host.shuntRead` calls, in the order of the calls; a call beyond the list's end is
  answered `none`, "nothing new" (20_memory.md R73; notes/assumptions/16.md). -/
  shunt : List (Option Word)
  /-- The answer to `Host.portIn` (46_system_io.md R368). -/
  portIn : HostReply Word
  /-- The answer to `Host.portOut` (46_system_io.md R369). -/
  portOut : HostReply Unit
  /-- The answer to `Host.interrupt`: writes to cells 0 to 13, in list order (60_exceptions.md R412). -/
  interrupt : HostReply (List (Fin 14 × Word))
deriving DecidableEq, Repr, Inhabited

/-! ### Free values -/

/-- The host's answers of the `n`-th step where no answers were given beforehand: FREE, the model admits every answer
(00_scope.md R15; notes/assumptions/3.md). -/
opaque Config.hostAnswers (n : Nat) : HostAnswers

/-- What a cell or a stack slot holds after a value outside `i16` was stored in it: FREE, the spec states no such value
(notes/assumptions/10.md). -/
opaque Config.wideWord (v : Int) : Word

end Sys2Proof
end

