-- ==== Sys2Proof/Machine/Defaults.lean ====
section
/-! DEFINITION. The spec's default values of the OPEN parameters (00_scope.md R6) and the quiet host of the test vectors'
conventions (95_test_vectors.md). -/

namespace Sys2Proof.Machine

/-- The default `PORT_TABLE`: ports 1 to 24 (20_memory.md R82). -/
def defaultPorts : List (Int × PortDir) :=
  [(1, .input), (2, .input), (3, .input), (4, .input), (5, .input), (6, .input), (7, .input), (8, .input), (9, .input),
   (10, .input), (11, .output), (12, .output), (13, .output), (14, .output), (15, .output), (16, .input), (17, .both),
   (18, .both), (19, .both), (20, .both), (21, .both), (22, .both), (23, .both), (24, .both)]

/-- The default `INT_TABLE`: 0 to 19 (60_exceptions.md R411). -/
def defaultInterrupts : List Int :=
  [0, 1, 2, 3, 4, 5, 6, 7, 8, 9, 10, 11, 12, 13, 14, 15, 16, 17, 18, 19]

/-- The defaults of 00_scope.md R6. The cost tables are empty: the document's default `PENALTY`
(40_execution_cycle.md R174). `SHADOW_MAP` is unknown. -/
def defaultParams : Params where
  stackSize := 256
  argCost := []
  opcodeCost := []
  portTable := defaultPorts
  intTable := defaultInterrupts
  softResetInt := 1
  shadowMap := ⟨none, none, none, none, none, none⟩
  retLink := .selfIndex
  errorPolicy := .stopTurn

/-- The host of the test vectors' conventions (95_test_vectors.md): not disabled, shadow cells 0, nothing new in the
shunt, everything accepted. -/
def quietHost : HostAnswers where
  disabled := false
  shadow := ⟨0, 0, 0, 0, 0, 0⟩
  shunt := []
  portIn := .ok 0
  portOut := .ok ()
  interrupt := .ok []

end Sys2Proof.Machine
end

