-- ==== Sys2Proof/Machine/State.lean ====
section
/-! DEFINITION. The state of the engine (10_state.md), the outcome of a step, the reasons a step can stop, and the state
after the program-load reset (70_reset_and_hazards.md R450). -/

namespace Sys2Proof.Machine

/-- Sparse cells of 16 bits by index, in one canonical form: indices strictly rising, no entry 0. An unlisted index reads
as 0, the reset contents (10_state.md R48, R49; notes/assumptions/7.md). The operations are in Machine/Ops.lean. -/
abbrev Cells := List (Nat × Word)

/-- A runtime error as it is raised: `Fault(code, info)` of 00_scope.md R13, both the exact values the rules raise it with. -/
structure RuntimeError where
  /-- The error kind's number (60_exceptions.md R400; ERR raises the value of its operand, R401). -/
  code : Int
  /-- The offending value, or none. -/
  info : Option Int
deriving DecidableEq, Repr, Inhabited

/-- What a step returns to the Process Wrapper (40_execution_cycle.md R150). -/
inductive StepOutcome where
  /-- The host reports the contestant disabled; nothing changed. -/
  | stopped
  /-- A pending penalty cycle was spent. -/
  | idle
  /-- Record `cur` was a label marker. -/
  | skipped (cur : Nat)
  /-- Record `cur` executed opcode `opc` without error. -/
  | executed (cur : Nat) (opc : Opcode)
  /-- Record `cur` raised a runtime error (60_exceptions.md R403). -/
  | faulted (cur : Nat) (error : RuntimeError)
deriving DecidableEq, Repr, Inhabited

/-- One interaction with the host (00_scope.md R15), with the arguments the engine passed. -/
inductive HostCall where
  /-- `Host.disabled()`. -/
  | disabled
  /-- `Host.shadow()`. -/
  | shadow
  /-- `Host.shuntRead(a)`. -/
  | shuntRead (a : Int)
  /-- `Host.portIn(p)`. -/
  | portIn (p : Int)
  /-- `Host.portOut(p, v)`. -/
  | portOut (p v : Int)
  /-- `Host.interrupt(n, (mem[0], ..., mem[7]))`. -/
  | interrupt (n : Int) (regs : List Word)
deriving DecidableEq, Repr, Inhabited

/-- The state of one engine (10_state.md R30), its launch constants (R45, and the OPEN parameters of 00_scope.md R6), what
the step returned, and the host's side of the step. -/
structure State where
  /-- `mem[0..1023]` (10_state.md R31): cells 0 to 7 are the registers (R32), 8 to 13 the shadow cells (R37). -/
  mem : Cells
  /-- `stack[0..STACK_SIZE-1]` (10_state.md R39). -/
  stack : Cells
  /-- `ip`: the index of the record the next fetch reads (10_state.md R40). -/
  ip : Nat
  /-- `prev_ip`: the index of the most recently fetched record (10_state.md R41). -/
  prevIp : Nat
  /-- `penalty`: idle cycles still owed (10_state.md R42). -/
  penalty : Nat
  /-- `micro`: consecutive executed zero-cost instructions (10_state.md R43). -/
  micro : Nat
  /-- `prog[0..N-1]`, a launch constant (10_state.md R45). -/
  prog : List Record
  /-- `NUM_TABLE`, a launch constant: entry `n` is a record index or undefined (20_memory.md R84). -/
  numTable : List (Option Nat)
  /-- `ALNUM_TABLE`, a launch constant (20_memory.md R84). -/
  alnumTable : List (Option Nat)
  /-- The OPEN parameters (00_scope.md R6), launch constants. -/
  params : Params
  /-- What the last step returned (40_execution_cycle.md R150); none before any step. -/
  outcome : Option StepOutcome
  /-- The host's answers of the step in progress (the model's own field, notes/assumptions/3.md). -/
  now : HostAnswers
  /-- The host's answers of the next steps, where given (the model's own field, notes/assumptions/3.md). -/
  pending : List HostAnswers
  /-- The number of steps begun: selects the free answer (the model's own field, notes/assumptions/3.md). -/
  hostClock : Nat
  /-- The host calls the last step made, in order (the model's own field, notes/assumptions/5.md). -/
  calls : List HostCall
deriving DecidableEq, Repr, Inhabited

/-- Why the machine stops. -/
inductive Fault where
  /-- Raised by the fetch (`Sys2Proof.Machine.cycle`) where `ip` names no record of the program, which the launch premise
  excludes (70_reset_and_hazards.md R456, 60_exceptions.md R422). Safe: the model goes no further where the spec gives no
  behaviour. -/
  | ipOutsideProgram
deriving DecidableEq, Repr, Inhabited

/-- Why an instruction has no meaning. -/
inductive Refusal where
  /-- Raised only by an arm of `exec` whose instruction is not modelled. Safe: the model goes no further. No arm raises
  it. -/
  | notModelled (mnemonic : String)
deriving DecidableEq, Repr, Inhabited

/-- What a step or a meaning answers. -/
abbrev Result := Host.Outcome State Fault Refusal

/-- The machine after the program-load reset (70_reset_and_hazards.md R450, 10_state.md R48 to R51), with the smallest
program the launch premise admits, the implicit trailing NOP alone (notes/assumptions/1.md), and the default parameters
(notes/assumptions/8.md). -/
def State.reset : State where
  mem := []
  stack := []
  ip := 0
  prevIp := 0
  penalty := 0
  micro := 0
  prog := [Record.nop]
  numTable := []
  alnumTable := []
  params := defaultParams
  outcome := none
  now := quietHost
  pending := []
  hostClock := 0
  calls := []

end Sys2Proof.Machine
end

