-- ==== Sys2Proof/Machine/Ops.lean ====
section
/-! DEFINITION. The named operations over the state: cells, the memory arbiter of 20_memory.md, the stack, the label
tables, the host calls, the penalty commit, and the taking of a runtime error. The engine has no trap return
(60_exceptions.md R408), so there is none beside it. -/

namespace Sys2Proof.Machine

/-! ### Cells -/

/-- The cell at an index; an unlisted index reads as 0 (10_state.md R48, R49). -/
def Cells.get : Cells → Nat → Word
  | [], _ => 0
  | (k, v) :: m, a => if k = a then v else Cells.get m a

/-- The cells without an entry for the index. -/
def Cells.erase : Cells → Nat → Cells
  | [], _ => []
  | (k, v) :: m, a => if k = a then Cells.erase m a else (k, v) :: Cells.erase m a

/-- The cells with an entry put before the first larger index. -/
def Cells.insert : Cells → Nat → Word → Cells
  | [], a, v => [(a, v)]
  | (k, w) :: m, a, v => if a < k then (a, v) :: (k, w) :: m else (k, w) :: Cells.insert m a v

/-- A write of one cell, keeping the canonical form: writing 0 removes the entry. -/
def Cells.set (m : Cells) (a : Nat) (v : Word) : Cells :=
  if v = 0 then Cells.erase m a else Cells.insert (Cells.erase m a) a v

/-- The canonical form from index `lo` on: indices strictly rising from `lo` and below `bound`, no entry 0. -/
def Cells.wfFrom (bound : Nat) : Nat → Cells → Bool
  | _, [] => true
  | lo, (k, v) :: m => decide (lo ≤ k) && decide (k < bound) && v != 0 && Cells.wfFrom bound (k + 1) m

/-- The canonical form of cells indexed below `bound`. -/
def Cells.wf (bound : Nat) (m : Cells) : Bool := Cells.wfFrom bound 0 m

/-- `MEM_CELLS` of 00_scope.md R6. -/
def memCells : Nat := 1024

/-- The data memory is in canonical form over its 1024 cells (10_state.md R31). -/
def Memory.wf (m : Cells) : Bool := Cells.wf memCells m

/-! ### Registers and plain cells -/

/-- The registers by name (10_state.md R32). -/
inductive Reg where
  | flags | ax | bx | cx | dx | ex | fx | sp
deriving DecidableEq, Repr

/-- `REG_ADDR`: the cell that is the register (10_state.md R32). -/
def Reg.addr : Reg → Nat
  | .flags => 0
  | .ax => 1
  | .bx => 2
  | .cx => 3
  | .dx => 4
  | .ex => 5
  | .fx => 6
  | .sp => 7

/-- `mem[n]` of 00_scope.md R11. -/
def State.cell (s : State) (n : Nat) : Word := s.mem.get n

/-- `mem[n] <- v` of 00_scope.md R11. -/
def State.setCell (s : State) (n : Nat) (v : Word) : State := { s with mem := s.mem.set n v }

/-- `x[r]` of 00_scope.md R11: a register is a cell with a name (10_state.md R32, R33). -/
def State.reg (s : State) (r : Reg) : Word := s.cell r.addr

/-- `x[r] <- v` of 00_scope.md R11. -/
def State.setReg (s : State) (r : Reg) (v : Word) : State := s.setCell r.addr v

/-- `ip <- t` (00_scope.md R14). -/
def State.setIp (s : State) (t : Nat) : State := { s with ip := t }

/-- What a cell or a stack slot holds after `v` was stored in it without a `wrap16`: `v`, where it is an `i16`
(00_scope.md R8). Outside (a record index or a stack index above 32767) the spec states no value and it is free. DESIGN
CHOICE, notes/assumptions/10.md. -/
def storeWord (v : Int) : Word := if -32768 ≤ v ∧ v < 32768 then BitVec.ofInt 16 v else Config.wideWord v

/-! ### Runtime errors -/

/-- The runtime error kinds (60_exceptions.md R400). -/
inductive ErrorKind where
  | stackFull | labelNotFound | readOnly | illegalMemory | stackEmpty | unknownInstruction | returnOutOfRange
  | divideByZero | unresolvedSymbol | invalidInterrupt | invalidPort | queueEmpty | noMineLayer | noMinesLeft
  | noShield | writeToReadOnlyPort | readFromWriteOnlyPort | inputOutOfBounds
deriving DecidableEq, Repr

/-- `ERROR_CODES` (60_exceptions.md R400). -/
def ErrorKind.code : ErrorKind → Int
  | .stackFull => 1
  | .labelNotFound => 2
  | .readOnly => 3
  | .illegalMemory => 4
  | .stackEmpty => 5
  | .unknownInstruction => 6
  | .returnOutOfRange => 7
  | .divideByZero => 8
  | .unresolvedSymbol => 9
  | .invalidInterrupt => 10
  | .invalidPort => 11
  | .queueEmpty => 12
  | .noMineLayer => 13
  | .noMinesLeft => 14
  | .noShield => 15
  | .writeToReadOnlyPort => 16
  | .readFromWriteOnlyPort => 17
  | .inputOutOfBounds => 18

/-- The kind of a host-reportable error (60_exceptions.md R402). -/
def hostErrorKind : HostError → ErrorKind
  | .queueEmpty => .queueEmpty
  | .noMineLayer => .noMineLayer
  | .noMinesLeft => .noMinesLeft
  | .noShield => .noShield
  | .inputOutOfBounds => .inputOutOfBounds

/-- The error of a kind with its offending value. -/
def ErrorKind.error (k : ErrorKind) (info : Option Int) : RuntimeError := ⟨k.code, info⟩

/-- What a part of an instruction answers: a value and the state after it, or a raised runtime error and the state where
it was raised, whose writes stay (00_scope.md R13). -/
inductive Res (α : Type) where
  /-- It went on. -/
  | ok (value : α) (s : State)
  /-- `raise Fault(code, info)`. -/
  | raise (error : RuntimeError) (s : State)
deriving DecidableEq, Repr

/-- The next part runs only where this one went on (00_scope.md R13). -/
def Res.bind {α β : Type} (r : Res α) (f : α → State → Res β) : Res β :=
  match r with
  | .ok a s => f a s
  | .raise e s => .raise e s

/-! ### The memory access arbiter (20_memory.md) -/

/-- `ROM_BASE` of 00_scope.md R6. -/
def romBase : Nat := 1024

/-- The greatest data address: addresses are `i16` (20_memory.md R70, R75). -/
def maxAddress : Int := 32767

/-- The regions of the data address map (20_memory.md R71). -/
inductive Region where
  /-- Outside the address space. -/
  | unmapped
  /-- A cell of the memory image read and written as a cell. -/
  | cell (n : Nat)
  /-- A cell of the shunt window, 512 to 767. -/
  | shunt (n : Nat)
  /-- Word `k` of record `i` in the ROM mirror. -/
  | mirror (i k : Nat)
deriving DecidableEq, Repr

/-- The region of an address in the map of a program of `n` records (20_memory.md R71, R74). -/
def region (n : Nat) (a : Int) : Region :=
  if a < 0 then .unmapped
  else if a.toNat < 512 then .cell a.toNat
  else if a.toNat < 768 then .shunt a.toNat
  else if a.toNat < romBase then .cell a.toNat
  else if a.toNat < romBase + 4 * n then .mirror ((a.toNat - romBase) / 4) ((a.toNat - romBase) % 4)
  else .unmapped

/-- `Mirror(a)`: word `k` of record `i` (20_memory.md R74). The region is a mirror only for a record of the program. -/
def mirrorWord (prog : List Record) (i k : Nat) : Word :=
  match prog[i]? with
  | some r => r.word k
  | none => 0

/-- `Host.shuntRead(a)` (20_memory.md R73): the next answer, with the call recorded. -/
def shuntRead (a : Int) (s : State) : Option Word × State :=
  (s.now.shunt.head?.join,
   { s with now := { s.now with shunt := s.now.shunt.tail }, calls := s.calls ++ [.shuntRead a] })

/-- `MemRead(a, 1)` (20_memory.md R72), the only read path of the data space. No address above 32767 can be formed, so the
mirror words beyond are never readable (R75): a GET of a greater record index faults as an access outside the address space
does, with code 4. DEDUCED, notes/assumptions/22.md. -/
def memRead (a : Int) (s : State) : Res Word :=
  match region s.prog.length a with
  | .unmapped => .raise (ErrorKind.illegalMemory.error (some a)) s
  | .mirror i k =>
    if maxAddress < a then .raise (ErrorKind.illegalMemory.error (some a)) s else .ok (mirrorWord s.prog i k) s
  | .shunt n => .ok ((shuntRead a s).1.getD (s.cell n)) (shuntRead a s).2
  | .cell n => .ok (s.cell n) s

/-- `CheckWritable(a)` (20_memory.md R76). -/
def checkWritable (a : Int) (s : State) : Res Unit :=
  match region s.prog.length a with
  | .unmapped => .raise (ErrorKind.illegalMemory.error (some a)) s
  | .mirror _ _ => .raise (ErrorKind.readOnly.error (some a)) s
  | .shunt _ => .ok () s
  | .cell _ => .ok () s

/-- `MemWrite(a, 1, v)` (20_memory.md R76, R77): a write makes no host call. -/
def memWrite (a : Int) (v : Word) (s : State) : Res Unit :=
  (checkWritable a s).bind fun _ s => .ok () (s.setCell a.toNat v)

/-! ### The stack (10_state.md R36, R39) -/

/-- The push of CALL and PUSH: legal for `0 <= SP < STACK_SIZE`, else code 1 with nothing written (44_subroutine_loop_stack.md
R300, R302). -/
def pushWord (v : Word) (s : State) : Res Unit :=
  if (s.reg .sp).toInt < 0 ∨ (s.params.stackSize : Int) ≤ (s.reg .sp).toInt then
    .raise (ErrorKind.stackFull.error (some (s.reg .sp).toInt)) s
  else
    .ok () ({ s with stack := s.stack.set (s.reg .sp).toNat v }.setReg .sp (storeWord ((s.reg .sp).toInt + 1)))

/-- The pop of RET and POP: legal for `0 < SP <= STACK_SIZE`, else code 5 with nothing written; the slot keeps its value
(44_subroutine_loop_stack.md R301, R303). -/
def popWord (s : State) : Res Word :=
  if (s.reg .sp).toInt ≤ 0 ∨ (s.params.stackSize : Int) < (s.reg .sp).toInt then
    .raise (ErrorKind.stackEmpty.error (some (s.reg .sp).toInt)) s
  else
    .ok (s.stack.get ((s.reg .sp).toNat - 1)) (s.setReg .sp (s.reg .sp - 1))

/-! ### The label tables (20_memory.md R84) -/

/-- The record index of a label: `some t` when the index is in the table and its entry is defined. -/
def lookupLabel (table : List (Option Nat)) (n : Int) : Option Nat :=
  if n < 0 then none else (table[n.toNat]?).join

/-- `NumLookup(n) or raise Fault(2, n)` (40_execution_cycle.md R164, R166, R168). -/
def numLookup (n : Int) (s : State) : Res Nat :=
  match lookupLabel s.numTable n with
  | some t => .ok t s
  | none => .raise (ErrorKind.labelNotFound.error (some n)) s

/-- `AlnumLookup(n) or raise Fault(9, n)` (40_execution_cycle.md R164, R166, R168). -/
def alnumLookup (n : Int) (s : State) : Res Nat :=
  match lookupLabel s.alnumTable n with
  | some t => .ok t s
  | none => .raise (ErrorKind.unresolvedSymbol.error (some n)) s

/-! ### Penalty (40_execution_cycle.md R174 to R176) -/

/-- `MICRO_LIMIT` of 00_scope.md R6. -/
def microLimit : Nat := 20

/-- The entry of a cost table, or the default where the table has none. -/
def lookupCost {α : Type} [DecidableEq α] (table : List (α × Nat)) (k : α) (default : Nat) : Nat :=
  match table with
  | [] => default
  | (k', c) :: t => if k' = k then c else lookupCost t k default

/-- The eight conditional jumps (40_execution_cycle.md R170, R174). -/
def isConditionalJump : Opcode → Bool
  | .jls | .jgr | .jne | .jeq | .jz | .jnz | .jae | .jbe => true
  | _ => false

/-- The document's default cost (40_execution_cycle.md R174). -/
def documentCost (opc : Opcode) (arg : Int) : Nat :=
  match opc with
  | .delay => max 1 arg.toNat
  | opc => if isConditionalJump opc then 0 else 1

/-- The opcodes whose cost with an unresolved argument is 1 whatever `PENALTY` is (40_execution_cycle.md R175). -/
def isArgumentCosted : Opcode → Bool
  | .delay | .int | .ipo | .opo => true
  | _ => false

/-- `Penalty(opc, arg)` with `arg` operand A's resolved value (40_execution_cycle.md R174): the entry of `argCost`, else
that of `opcodeCost`, else the document's default. Where no argument is resolved DELAY, INT, IPO and OPO cost 1, and every
other opcode does not depend on it (R175). -/
def penaltyOf (p : Params) (opc : Opcode) (arg : Option Int) : Nat :=
  match arg with
  | some a => lookupCost p.argCost (opc, a) (lookupCost p.opcodeCost opc (documentCost opc a))
  | none => if isArgumentCosted opc then 1 else lookupCost p.opcodeCost opc (documentCost opc 0)

/-- `FaultCost(opc, argA)` (40_execution_cycle.md R175): 1 where the opcode is unknown. -/
def faultCost (p : Params) (opc : Option Opcode) (arg : Option Int) : Nat :=
  match opc with
  | none => 1
  | some o => penaltyOf p o arg

/-- `Commit(c)` (40_execution_cycle.md R176). -/
def State.commit (s : State) (c : Nat) : State :=
  if c = 0 then
    if microLimit ≤ s.micro + 1 then { s with penalty := 1, micro := 0 }
    else { s with penalty := 0, micro := s.micro + 1 }
  else { s with penalty := c, micro := 0 }

/-! ### The end of an instruction -/

/-- `Commit(Penalty(opc, argA)); return Executed(cur, opc)` (40_execution_cycle.md R150); `cur` is `prev_ip` (10_state.md
R41). -/
def State.executed (s : State) (opc : Opcode) (arg : Option Int) : State :=
  { s.commit (penaltyOf s.params opc arg) with outcome := some (.executed s.prevIp opc) }

/-- TAKING A RUNTIME ERROR, the one shared operation: `Commit(FaultCost(opc, argA)); return Faulted(cur, code, info)`
(40_execution_cycle.md R150, R173, R175). Nothing is saved in memory, the stack or a register, and `ip` stays
(60_exceptions.md R403, R404, R407). -/
def State.runtimeError (s : State) (opc : Option Opcode) (arg : Option Int) (e : RuntimeError) : State :=
  { s.commit (faultCost s.params opc arg) with outcome := some (.faulted s.prevIp e) }

/-! ### The host calls and the stages around an instruction -/

/-- The answers of the step that begins, and its first call `Host.disabled()` (40_execution_cycle.md R151, R179): the next
given answers, or free ones (notes/assumptions/3.md). -/
def State.beginStep (s : State) : State :=
  match s.pending with
  | [] => { s with now := Config.hostAnswers s.hostClock, hostClock := s.hostClock + 1, calls := [.disabled] }
  | h :: t => { s with now := h, pending := t, hostClock := s.hostClock + 1, calls := [.disabled] }

/-- The shadow refresh (40_execution_cycle.md R154). -/
def State.refreshShadow (s : State) : State :=
  let t := (((((s.setCell 8 s.now.shadow.c8).setCell 9 s.now.shadow.c9).setCell 10 s.now.shadow.c10).setCell 11
    s.now.shadow.c11).setCell 12 s.now.shadow.c12).setCell 13 s.now.shadow.c13
  { t with calls := t.calls ++ [.shadow] }

/-- The fetch's writes to `prev_ip` and `ip` (40_execution_cycle.md R153), then the shadow refresh (R154). -/
def State.fetched (s : State) : State :=
  State.refreshShadow { s with prevIp := s.ip, ip := (s.ip + 1) % s.prog.length }

/-- The eight register values INT hands to the host (60_exceptions.md R412). -/
def State.registers (s : State) : List Word :=
  [s.cell 0, s.cell 1, s.cell 2, s.cell 3, s.cell 4, s.cell 5, s.cell 6, s.cell 7]

/-- The writes of an interrupt's answer, in list order (46_system_io.md R364). -/
def State.applyWrites (s : State) : List (Fin 14 × Word) → State
  | [] => s
  | (a, v) :: ws => State.applyWrites (s.setCell a.val v) ws

/-- `SoftReset()` (60_exceptions.md R413): memory and stack 0, `ip` 0. -/
def State.softReset (s : State) : State := { s with mem := [], stack := [], ip := 0 }

/-- A host call is recorded. -/
def State.call (s : State) (c : HostCall) : State := { s with calls := s.calls ++ [c] }

end Sys2Proof.Machine
end

