-- ==== Sys2Proof/Machine/Operands.lean ====
section
/-! DEFINITION. The operand indirection resolver (40_execution_cycle.md R159 to R170) and the stages of the step around an
instruction's own rule (R150). -/

namespace Sys2Proof.Machine

/-- The operand usage codes (30_encoding.md R121). -/
inductive Usage where
  /-- The field is not resolved and never faults. -/
  | none
  /-- The value is read. -/
  | r
  /-- The field is a destination; its value is not read. -/
  | w
  /-- The value is read and the field is a destination. -/
  | rw
  /-- Only the address is resolved (LOC). -/
  | addr
  /-- The value is read and used as a label index. -/
  | jump
deriving DecidableEq, Repr

/-- The usage of operand A (30_encoding.md R120). -/
def useA : Opcode → Usage
  | .nop | .ret => .none
  | .add | .sub | .or | .and | .xor | .not | .mpy | .div | .mod | .xchg | .inc | .dec | .shl | .shr | .rol | .ror
  | .sal | .sar | .neg => .rw
  | .call | .jmp | .jls | .jgr | .jne | .jeq | .loop | .jz | .jnz | .jae | .jbe => .jump
  | .doCx | .cmp | .test | .put | .int | .ipo | .opo | .delay | .push | .err | .jtl => .r
  | .mov | .loc | .get | .pop => .w

/-- The usage of operand B (30_encoding.md R120). -/
def useB : Opcode → Usage
  | .add | .sub | .or | .and | .xor | .mpy | .div | .mod | .cmp | .test | .mov | .get | .put | .opo | .shl | .shr
  | .rol | .ror | .sal | .sar => .r
  | .xchg => .rw
  | .loc => .addr
  | .ipo => .w
  | .nop | .not | .ret | .call | .jmp | .jls | .jgr | .jne | .jeq | .doCx | .loop | .int | .delay | .push | .pop
  | .err | .inc | .dec | .jz | .jnz | .jae | .jbe | .neg | .jtl => .none

/-- A usage whose field is a destination. -/
def Usage.writes : Usage → Bool
  | .w | .rw => true
  | .none | .r | .addr | .jump => false

/-- The structural check of one operand (40_execution_cycle.md R159): a destination at level 0 or with a jump kind is
refused. -/
def structurallyBad (d : Operand) (u : Usage) : Bool :=
  u.writes && (d.level == 0 || d.jumpKind != .none)

/-- The structural check of an instruction, A before B (40_execution_cycle.md R159): the field word of the first operand
refused. -/
def structuralCheck (opc : Opcode) (dA dB : Operand) : Option Word :=
  if structurallyBad dA (useA opc) then some dA.value
  else if structurallyBad dB (useB opc) then some dB.value
  else none

/-- What `Resolve` returns: the operand's address and its value, each where the usage gives one. Both are exact integers: a
label's record index may lie above `i16` (40_execution_cycle.md R164, R166). -/
structure Resolved where
  /-- `addrX`. -/
  addr : Option Int
  /-- `x`. -/
  val : Option Int
deriving DecidableEq, Repr

/-- The value of an operand whose usage reads one (`r`, `rw`, `jump`); the usage of every rule that reads it gives it. -/
def Resolved.value (r : Resolved) : Int := r.val.getD 0

/-- The address part of `Resolve` (40_execution_cycle.md R162). -/
def operandAddress (d : Operand) (s : State) : Res (Option Int) :=
  match d.level with
  | 0 => .ok none s
  | 1 => .ok (some d.value.toInt) s
  | _ => (memRead d.value.toInt s).bind fun p s => .ok (some p.toInt) s

/-- The value part of `Resolve` (40_execution_cycle.md R163). -/
def operandValue (d : Operand) (addr : Option Int) (s : State) : Res Int :=
  match addr with
  | none => .ok d.value.toInt s
  | some a => (memRead a s).bind fun v s => .ok v.toInt s

/-- A jump-flagged value replaced by its table entry (40_execution_cycle.md R164, R166). -/
def labelEntry (k : JumpKind) (n : Int) (s : State) : Res Int :=
  match k with
  | .none => .ok n s
  | .numeric => (numLookup n s).bind fun t s => .ok t s
  | .symbolic => (alnumLookup n s).bind fun t s => .ok t s

/-- The write check of a destination (40_execution_cycle.md R165). A destination without an address has been refused by the
structural check (R159); refused alone, it is refused the same way. -/
def checkDestination (d : Operand) (addr : Option Int) (s : State) : Res Unit :=
  match addr with
  | none => .raise (ErrorKind.readOnly.error (some d.value.toInt)) s
  | some a => checkWritable a s

/-- `Resolve(d, u)` (40_execution_cycle.md R161 to R167). -/
def resolve (d : Operand) (u : Usage) (s : State) : Res Resolved :=
  if u = .none then .ok ⟨none, none⟩ s
  else if d.isReserved then .raise (ErrorKind.unknownInstruction.error (some d.value.toInt)) s
  else (operandAddress d s).bind fun addr s =>
    match u with
    | .none => .ok ⟨none, none⟩ s
    | .r => (operandValue d addr s).bind fun v s => (labelEntry d.jumpKind v s).bind fun v s => .ok ⟨addr, some v⟩ s
    | .rw => (operandValue d addr s).bind fun v s => (labelEntry d.jumpKind v s).bind fun v s =>
        (checkDestination d addr s).bind fun _ s => .ok ⟨addr, some v⟩ s
    | .w => (checkDestination d addr s).bind fun _ s => .ok ⟨addr, none⟩ s
    | .addr => (labelEntry d.jumpKind (addr.getD d.value.toInt) s).bind fun base s => .ok ⟨some base, none⟩ s
    | .jump => (operandValue d addr s).bind fun v s => .ok ⟨addr, some v⟩ s

/-- `ResolveValue(d)` of the opcode field (40_execution_cycle.md R157), read through `MemRead` like any operand. -/
def resolveOpcode (d : Operand) (s : State) : Res Int :=
  (operandAddress d s).bind fun addr s => operandValue d addr s

/-- `JumpTarget(d, n)` (40_execution_cycle.md R168). -/
def jumpTarget (d : Operand) (n : Int) (s : State) : Res Nat :=
  match d.jumpKind with
  | .symbolic => alnumLookup n s
  | .numeric => numLookup n s
  | .none => numLookup n s

/-- `ip <- JumpTarget(d, n)`. -/
def jumpTo (d : Operand) (n : Int) (s : State) : Res Unit :=
  (jumpTarget d n s).bind fun t s => .ok () (s.setIp t)

/-- `mem[addrX] <- v` of a word (40_execution_cycle.md R172): the address was checked writable by R165. -/
def writeBack (x : Resolved) (v : Word) (s : State) : Res Unit :=
  match x.addr with
  | none => .ok () s
  | some a => .ok () (s.setCell a.toNat v)

/-- The end of the step's `try` block (40_execution_cycle.md R150): the commit and the outcome, of an instruction that
executed or of one that faulted with `argA` as resolved so far. -/
def finish (opc : Opcode) (argA : Option Int) (r : Res Unit) : State :=
  match r with
  | .ok _ s => s.executed opc argA
  | .raise e s => s.runtimeError (some opc) argA e

/-- The stages of the step from the structural check to the commit (40_execution_cycle.md R150, R159, R161, R171) around
the rule of opcode `opc`, given as `rule a b`. -/
def runInstr (opc : Opcode) (dA dB : Operand) (rule : Resolved → Resolved → State → Res Unit) (s : State) : Result :=
  match structuralCheck opc dA dB with
  | some w => .next (s.runtimeError (some opc) none (ErrorKind.readOnly.error (some w.toInt)))
  | none =>
    match resolve dA (useA opc) s with
    | .raise e s => .next (s.runtimeError (some opc) none e)
    | .ok a s => .next (finish opc a.val ((resolve dB (useB opc) s).bind fun b s => rule a b s))

end Sys2Proof.Machine
end

