-- ==== Sys2Proof/Machine/Arithmetic.lean ====
section
/-! DEFINITION. Arithmetic: ADD SUB MPY DIV MOD INC DEC NEG (41_arithmetic.md). Every result is the exact one brought back by
`wrap16` (R208); FLAGS are not written unless cell 0 is the destination. -/

namespace Sys2Proof.Machine

/-- `tdiv` of 00_scope.md R10: the quotient rounded toward zero. -/
def tdiv (a b : Int) : Int := Int.tdiv a b

/-- `tmod` of 00_scope.md R10: a nonzero remainder has the sign of `a`. -/
def tmod (a b : Int) : Int := a - b * tdiv a b

/-- An instruction whose rule is `mem[addrA] <- f a b`. -/
def writeA (f : Int → Int → Word) (a b : Resolved) (s : State) : Res Unit := writeBack a (f a.value b.value) s

/-- A division rule: code 8 before any write where `b = 0` (41_arithmetic.md R203, R204). -/
def divideA (f : Int → Int → Int) (a b : Resolved) (s : State) : Res Unit :=
  if b.value = 0 then .raise (ErrorKind.divideByZero.error none) s
  else writeBack a (wrap16 (f a.value b.value)) s

/-- ADD (41_arithmetic.md R200). -/
def execAdd (dA dB : Operand) (s : State) : Result :=
  runInstr .add dA dB (writeA fun a b => wrap16 (a + b)) s

/-- SUB (41_arithmetic.md R201). -/
def execSub (dA dB : Operand) (s : State) : Result :=
  runInstr .sub dA dB (writeA fun a b => wrap16 (a - b)) s

/-- MPY: the low 16 bits of the exact product (41_arithmetic.md R202). -/
def execMpy (dA dB : Operand) (s : State) : Result :=
  runInstr .mpy dA dB (writeA fun a b => wrap16 (a * b)) s

/-- DIV (41_arithmetic.md R203). -/
def execDiv (dA dB : Operand) (s : State) : Result := runInstr .div dA dB (divideA tdiv) s

/-- MOD (41_arithmetic.md R204). -/
def execMod (dA dB : Operand) (s : State) : Result := runInstr .mod dA dB (divideA tmod) s

/-- INC (41_arithmetic.md R205). -/
def execInc (dA : Operand) (s : State) : Result :=
  runInstr .inc dA .unused (writeA fun a _ => wrap16 (a + 1)) s

/-- DEC (41_arithmetic.md R206). -/
def execDec (dA : Operand) (s : State) : Result :=
  runInstr .dec dA .unused (writeA fun a _ => wrap16 (a - 1)) s

/-- NEG (41_arithmetic.md R207). -/
def execNeg (dA : Operand) (s : State) : Result :=
  runInstr .neg dA .unused (writeA fun a _ => wrap16 (0 - a)) s

end Sys2Proof.Machine
end

