-- ==== Sys2Proof/Machine/Bitwise.lean ====
section
/-! DEFINITION. Bitwise, shift and rotate: OR AND XOR NOT SHL SHR ROL ROR SAL SAR (42_bitwise_shift.md). No flag is
written unless cell 0 is the destination. -/

namespace Sys2Proof.Machine

/-- The count of every shift and rotate: the low four bits of B's pattern (42_bitwise_shift.md R240). -/
def shiftCount (b : Int) : Nat := (u16 b).toNat % 16

/-- The left shift of SHL and SAL (42_bitwise_shift.md R234, R238). -/
def shiftLeft (a b : Int) : Word := s16 ((u16 a).toNat * 2 ^ shiftCount b % 65536)

/-- The logical right shift of SHR (42_bitwise_shift.md R235). -/
def shiftRight (a b : Int) : Word := s16 ((u16 a).toNat / 2 ^ shiftCount b)

/-- The left rotate of ROL (42_bitwise_shift.md R236). -/
def rotateLeft (a b : Int) : Word :=
  s16 ((u16 a).toNat * 2 ^ shiftCount b % 65536 + (u16 a).toNat / 2 ^ (16 - shiftCount b))

/-- The right rotate of ROR (42_bitwise_shift.md R237). -/
def rotateRight (a b : Int) : Word :=
  s16 ((u16 a).toNat / 2 ^ shiftCount b + (u16 a).toNat * 2 ^ (16 - shiftCount b) % 65536)

/-- The arithmetic right shift of SAR: the signed value divided, rounded toward minus infinity (42_bitwise_shift.md
R239). -/
def shiftRightSigned (a b : Int) : Word := wrap16 (Int.fdiv a (2 ^ shiftCount b))

/-- OR (42_bitwise_shift.md R230). -/
def execOr (dA dB : Operand) (s : State) : Result := runInstr .or dA dB (writeA fun a b => u16 a ||| u16 b) s

/-- AND (42_bitwise_shift.md R231). -/
def execAnd (dA dB : Operand) (s : State) : Result := runInstr .and dA dB (writeA fun a b => u16 a &&& u16 b) s

/-- XOR (42_bitwise_shift.md R232). -/
def execXor (dA dB : Operand) (s : State) : Result := runInstr .xor dA dB (writeA fun a b => u16 a ^^^ u16 b) s

/-- NOT (42_bitwise_shift.md R233). -/
def execNot (dA : Operand) (s : State) : Result := runInstr .not dA .unused (writeA fun a _ => ~~~u16 a) s

/-- SHL (42_bitwise_shift.md R234). -/
def execShl (dA dB : Operand) (s : State) : Result := runInstr .shl dA dB (writeA shiftLeft) s

/-- SHR (42_bitwise_shift.md R235). -/
def execShr (dA dB : Operand) (s : State) : Result := runInstr .shr dA dB (writeA shiftRight) s

/-- ROL (42_bitwise_shift.md R236). -/
def execRol (dA dB : Operand) (s : State) : Result := runInstr .rol dA dB (writeA rotateLeft) s

/-- ROR (42_bitwise_shift.md R237). -/
def execRor (dA dB : Operand) (s : State) : Result := runInstr .ror dA dB (writeA rotateRight) s

/-- SAL (42_bitwise_shift.md R238). -/
def execSal (dA dB : Operand) (s : State) : Result := runInstr .sal dA dB (writeA shiftLeft) s

/-- SAR (42_bitwise_shift.md R239). -/
def execSar (dA dB : Operand) (s : State) : Result := runInstr .sar dA dB (writeA shiftRightSigned) s

end Sys2Proof.Machine
end

