-- ==== Sys2Proof/Machine/Flags.lean ====
section
/-! DEFINITION. The condition flags of FLAGS, cell 0 (10_state.md R34): what CMP and TEST compute, and the conditions of the
jumps (43_compare_jump.md R260, R261, R263). No other instruction sets a flag. -/

namespace Sys2Proof.Machine

/-- E, bit 0 of FLAGS. -/
def flagE (f : Word) : Bool := f.getLsbD 0

/-- L, bit 1 of FLAGS. -/
def flagL (f : Word) : Bool := f.getLsbD 1

/-- G, bit 2 of FLAGS. -/
def flagG (f : Word) : Bool := f.getLsbD 2

/-- Z, bit 3 of FLAGS. -/
def flagZ (f : Word) : Bool := f.getLsbD 3

/-- The four flag bits CMP computes from the exact signed difference (43_compare_jump.md R260). -/
def cmpFlags (a b : Int) : Nat :=
  let k := a - b
  (if k = 0 then 1 else 0) + (if k < 0 then 2 else 0) + (if k > 0 then 4 else 0)
    + (if a = 0 ∧ b = 0 then 8 else 0)

/-- The four flag bits TEST computes (43_compare_jump.md R261). -/
def testFlags (a b : Int) : Nat :=
  let k := (u16 a &&& u16 b).toInt
  (if k = b then 1 else 0) + (if k = 0 then 8 else 0)

/-- FLAGS with bits 3:0 replaced and bits 15:4 kept (43_compare_jump.md R260, R261). -/
def replaceFlags (old : Word) (f : Nat) : Word := s16 (old.toNat / 16 * 16 + f)

/-- JLS: `L = 1` (43_compare_jump.md R263). -/
def condJls (f : Word) : Bool := flagL f

/-- JGR: `G = 1`. -/
def condJgr (f : Word) : Bool := flagG f

/-- JNE: `E = 0`. -/
def condJne (f : Word) : Bool := !flagE f

/-- JEQ: `E = 1`. -/
def condJeq (f : Word) : Bool := flagE f

/-- JZ: `Z = 1`. -/
def condJz (f : Word) : Bool := flagZ f

/-- JNZ: `Z = 0`. -/
def condJnz (f : Word) : Bool := !flagZ f

/-- JAE: `E = 1 or G = 1`. -/
def condJae (f : Word) : Bool := flagE f || flagG f

/-- JBE: `E = 1 or L = 1`. -/
def condJbe (f : Word) : Bool := flagE f || flagL f

end Sys2Proof.Machine
end

