-- ==== Sys2Proof/Machine/CompareJump.lean ====
section
/-! DEFINITION. Compare and jump: CMP TEST JMP JTL JLS JGR JNE JEQ JZ JNZ JAE JBE (43_compare_jump.md). -/

namespace Sys2Proof.Machine

/-- A rule that replaces bits 3:0 of FLAGS as it stands after resolution (43_compare_jump.md R260, R261). -/
def setFlags (f : Int → Int → Nat) (a b : Resolved) (s : State) : Res Unit :=
  .ok () (s.setReg .flags (replaceFlags (s.reg .flags) (f a.value b.value)))

/-- The template of the conditional jumps: the target is looked up only where the condition holds (43_compare_jump.md R262,
40_execution_cycle.md R170). -/
def jumpIf (cond : Word → Bool) (dA : Operand) (a _b : Resolved) (s : State) : Res Unit :=
  if cond (s.reg .flags) then jumpTo dA a.value s else .ok () s

/-- The rule of JTL: a record index, no table (43_compare_jump.md R265). -/
def jumpToIndex (a _b : Resolved) (s : State) : Res Unit :=
  if a.value < 0 ∨ (s.prog.length : Int) ≤ a.value then
    .raise (ErrorKind.labelNotFound.error (some a.value)) s
  else .ok () (s.setIp a.value.toNat)

/-- CMP (43_compare_jump.md R260). -/
def execCmp (dA dB : Operand) (s : State) : Result := runInstr .cmp dA dB (setFlags cmpFlags) s

/-- TEST (43_compare_jump.md R261). -/
def execTest (dA dB : Operand) (s : State) : Result := runInstr .test dA dB (setFlags testFlags) s

/-- JMP (43_compare_jump.md R264; the target is found before dispatch, 40_execution_cycle.md R169). -/
def execJmp (dA : Operand) (s : State) : Result := runInstr .jmp dA .unused (fun a _ s => jumpTo dA a.value s) s

/-- JTL (43_compare_jump.md R265). -/
def execJtl (dA : Operand) (s : State) : Result := runInstr .jtl dA .unused jumpToIndex s

/-- JLS (43_compare_jump.md R266). -/
def execJls (dA : Operand) (s : State) : Result := runInstr .jls dA .unused (jumpIf condJls dA) s

/-- JGR (43_compare_jump.md R267). -/
def execJgr (dA : Operand) (s : State) : Result := runInstr .jgr dA .unused (jumpIf condJgr dA) s

/-- JNE (43_compare_jump.md R268). -/
def execJne (dA : Operand) (s : State) : Result := runInstr .jne dA .unused (jumpIf condJne dA) s

/-- JEQ (43_compare_jump.md R269). -/
def execJeq (dA : Operand) (s : State) : Result := runInstr .jeq dA .unused (jumpIf condJeq dA) s

/-- JZ (43_compare_jump.md R270). -/
def execJz (dA : Operand) (s : State) : Result := runInstr .jz dA .unused (jumpIf condJz dA) s

/-- JNZ (43_compare_jump.md R271). -/
def execJnz (dA : Operand) (s : State) : Result := runInstr .jnz dA .unused (jumpIf condJnz dA) s

/-- JAE (43_compare_jump.md R272). -/
def execJae (dA : Operand) (s : State) : Result := runInstr .jae dA .unused (jumpIf condJae dA) s

/-- JBE (43_compare_jump.md R273). -/
def execJbe (dA : Operand) (s : State) : Result := runInstr .jbe dA .unused (jumpIf condJbe dA) s

end Sys2Proof.Machine
end

