-- ==== Sys2Proof/Machine/Label.lean ====
section
/-! DEFINITION. The label markers `:N` and `!name` (40_execution_cycle.md R155): free no-ops. -/

namespace Sys2Proof.Machine

/-- `return Skipped(cur)`: no penalty, `micro` unchanged, nothing read (40_execution_cycle.md R155). -/
def State.skipped (s : State) : State := { s with outcome := some (.skipped s.prevIp) }

/-- The numeric label marker; its label index and its `x` bit are ignored (40_execution_cycle.md R155, 30_encoding.md
R123). -/
def execNumericLabel (_index : Word) (_indirectTwo : Bool) (s : State) : Result := .next s.skipped

/-- The symbolic label marker; its label index and its `x` bit are ignored (40_execution_cycle.md R155, 30_encoding.md
R123). -/
def execSymbolicLabel (_index : Word) (_indirectTwo : Bool) (s : State) : Result := .next s.skipped

end Sys2Proof.Machine
end

