-- ==== Sys2Proof/Machine/Move.lean ====
section
/-! DEFINITION. Data movement: MOV XCHG LOC GET PUT (45_move.md). -/

namespace Sys2Proof.Machine

/-- The rule of XCHG: both values were read before, A is written first (45_move.md R331). -/
def xchgRule (a b : Resolved) (s : State) : Res Unit :=
  (writeBack a (storeWord b.value) s).bind fun _ s => writeBack b (storeWord a.value) s

/-- The rule of GET: one read at the address B holds, then the write (45_move.md R333). -/
def getRule (a b : Resolved) (s : State) : Res Unit := (memRead b.value s).bind fun v s => writeBack a v s

/-- MOV (45_move.md R330). -/
def execMov (dA dB : Operand) (s : State) : Result := runInstr .mov dA dB (fun a b s => writeBack a (storeWord b.value) s) s

/-- XCHG (45_move.md R331). -/
def execXchg (dA dB : Operand) (s : State) : Result := runInstr .xchg dA dB xchgRule s

/-- LOC: A receives B's effective address (45_move.md R332, 40_execution_cycle.md R166). -/
def execLoc (dA dB : Operand) (s : State) : Result :=
  runInstr .loc dA dB (fun a b s => writeBack a (storeWord (b.addr.getD dB.value.toInt)) s) s

/-- GET (45_move.md R333). -/
def execGet (dA dB : Operand) (s : State) : Result := runInstr .get dA dB getRule s

/-- PUT: the value of A to the address B holds (45_move.md R334). -/
def execPut (dA dB : Operand) (s : State) : Result := runInstr .put dA dB (fun a b s => memWrite b.value (storeWord a.value) s) s

end Sys2Proof.Machine
end

