-- ==== Sys2Proof/Machine/Subroutine.lean ====
section
/-! DEFINITION. Subroutine, loop and stack: CALL RET PUSH POP DO LOOP (44_subroutine_loop_stack.md). -/

namespace Sys2Proof.Machine

/-- The link CALL pushes: its own index, or under `NextIndex` the fall-through index `ip` (44_subroutine_loop_stack.md
R300). -/
def callLink (s : State) : Nat :=
  match s.params.retLink with
  | .selfIndex => s.prevIp
  | .nextIndex => s.ip

/-- Where RET resumes for a link in `[0, N)`: the record after it, or under `NextIndex` the link itself
(44_subroutine_loop_stack.md R300, R301). -/
def returnIndex (s : State) (link : Nat) : Nat :=
  match s.params.retLink with
  | .selfIndex => (link + 1) % s.prog.length
  | .nextIndex => link

/-- The rule of CALL: the target first, then the push, then the jump (44_subroutine_loop_stack.md R300). -/
def callRule (dA : Operand) (a _b : Resolved) (s : State) : Res Unit :=
  (jumpTarget dA a.value s).bind fun tgt s =>
    (pushWord (storeWord (callLink s)) s).bind fun _ s => .ok () (s.setIp tgt)

/-- The rule of RET: the link is checked after SP was decremented (44_subroutine_loop_stack.md R301). -/
def retRule (_a _b : Resolved) (s : State) : Res Unit :=
  (popWord s).bind fun r s =>
    if r.toInt < 0 ∨ (s.prog.length : Int) ≤ r.toInt then
      .raise (ErrorKind.returnOutOfRange.error (some r.toInt)) s
    else .ok () (s.setIp (returnIndex s r.toNat))

/-- The rule of POP: SP first, then the destination (44_subroutine_loop_stack.md R303). -/
def popRule (a _b : Resolved) (s : State) : Res Unit := (popWord s).bind fun v s => writeBack a v s

/-- The rule of LOOP: CX is written, taken or not; the target is looked up only where the jump is taken
(44_subroutine_loop_stack.md R305). -/
def loopRule (dA : Operand) (a _b : Resolved) (s : State) : Res Unit :=
  let c := wrap16 ((s.reg .cx).toInt - 1)
  if 0 < c.toInt then jumpTo dA a.value (s.setReg .cx c) else .ok () (s.setReg .cx c)

/-- CALL (44_subroutine_loop_stack.md R300). -/
def execCall (dA : Operand) (s : State) : Result := runInstr .call dA .unused (callRule dA) s

/-- RET (44_subroutine_loop_stack.md R301). -/
def execRet (s : State) : Result := runInstr .ret .unused .unused retRule s

/-- PUSH (44_subroutine_loop_stack.md R302). -/
def execPush (dA : Operand) (s : State) : Result := runInstr .push dA .unused (fun a _ s => pushWord (storeWord a.value) s) s

/-- POP (44_subroutine_loop_stack.md R303). -/
def execPop (dA : Operand) (s : State) : Result := runInstr .pop dA .unused popRule s

/-- DO (44_subroutine_loop_stack.md R304). -/
def execDoCx (dA : Operand) (s : State) : Result :=
  runInstr .doCx dA .unused (fun a _ s => .ok () (s.setReg .cx (storeWord a.value))) s

/-- LOOP (44_subroutine_loop_stack.md R305). -/
def execLoop (dA : Operand) (s : State) : Result := runInstr .loop dA .unused (loopRule dA) s

end Sys2Proof.Machine
end

