-- ==== Sys2Proof/Machine/System.lean ====
section
/-! DEFINITION. System and I/O: NOP DELAY ERR INT IPO OPO (46_system_io.md). -/

namespace Sys2Proof.Machine

/-- The direction of a port in `PORT_TABLE`; none where the port number is invalid (20_memory.md R82). -/
def portDir (table : List (Int × PortDir)) (p : Int) : Option PortDir :=
  match table with
  | [] => none
  | (q, d) :: t => if q = p then some d else portDir t p

/-- `PortCheck(p, in)` (46_system_io.md R365). -/
def checkPortIn (p : Int) (s : State) : Res Unit :=
  match portDir s.params.portTable p with
  | none => .raise (ErrorKind.invalidPort.error (some p)) s
  | some .output => .raise (ErrorKind.readFromWriteOnlyPort.error (some p)) s
  | some .input => .ok () s
  | some .both => .ok () s

/-- `PortCheck(p, out)` (46_system_io.md R365). -/
def checkPortOut (p : Int) (s : State) : Res Unit :=
  match portDir s.params.portTable p with
  | none => .raise (ErrorKind.invalidPort.error (some p)) s
  | some .input => .raise (ErrorKind.writeToReadOnlyPort.error (some p)) s
  | some .output => .ok () s
  | some .both => .ok () s

/-- `Host.portIn(p)` (46_system_io.md R368). -/
def portIn (p : Int) (s : State) : Res Word :=
  match s.now.portIn with
  | .ok v => .ok v (s.call (.portIn p))
  | .err k => .raise ((hostErrorKind k).error (some p)) (s.call (.portIn p))

/-- `Host.portOut(p, v)` (46_system_io.md R369). -/
def portOut (p v : Int) (s : State) : Res Unit :=
  match s.now.portOut with
  | .ok _ => .ok () (s.call (.portOut p v))
  | .err k => .raise ((hostErrorKind k).error (some p)) (s.call (.portOut p v))

/-- `Host.interrupt(n, (mem[0], ..., mem[7]))` and the writes it answers (46_system_io.md R364, 60_exceptions.md R412). -/
def hostInterrupt (n : Int) (s : State) : Res Unit :=
  match s.now.interrupt with
  | .ok ws => .ok () ((s.call (.interrupt n s.registers)).applyWrites ws)
  | .err k => .raise ((hostErrorKind k).error (some n)) (s.call (.interrupt n s.registers))

/-- The rule of INT (46_system_io.md R364). -/
def intRule (a _b : Resolved) (s : State) : Res Unit :=
  if a.value ∉ s.params.intTable then .raise (ErrorKind.invalidInterrupt.error (some a.value)) s
  else if a.value = s.params.softResetInt then .ok () s.softReset
  else hostInterrupt a.value s

/-- The rule of IPO (46_system_io.md R366). -/
def ipoRule (a b : Resolved) (s : State) : Res Unit :=
  (checkPortIn a.value s).bind fun _ s => (portIn a.value s).bind fun v s => writeBack b v s

/-- The rule of OPO (46_system_io.md R367). -/
def opoRule (a b : Resolved) (s : State) : Res Unit :=
  (checkPortOut a.value s).bind fun _ s => portOut a.value b.value s

/-- NOP (46_system_io.md R360). -/
def execNop (s : State) : Result := runInstr .nop .unused .unused (fun _ _ s => .ok () s) s

/-- DELAY: no state change of its own; its cost is `max(1, a)` (46_system_io.md R361). -/
def execDelay (dA : Operand) (s : State) : Result := runInstr .delay dA .unused (fun _ _ s => .ok () s) s

/-- ERR: raises the kind its operand holds (46_system_io.md R362, R363). -/
def execErr (dA : Operand) (s : State) : Result := runInstr .err dA .unused (fun a _ s => .raise ⟨a.value, none⟩ s) s

/-- INT (46_system_io.md R364). -/
def execInt (dA : Operand) (s : State) : Result := runInstr .int dA .unused intRule s

/-- IPO (46_system_io.md R366). -/
def execIpo (dA dB : Operand) (s : State) : Result := runInstr .ipo dA dB ipoRule s

/-- OPO (46_system_io.md R367). -/
def execOpo (dA dB : Operand) (s : State) : Result := runInstr .opo dA dB opoRule s

end Sys2Proof.Machine
end

