-- ==== Sys2Proof/Machine/Dispatch.lean ====
section
/-! DEFINITION. The dispatch mux (40_execution_cycle.md R171): one arm per instruction, each one call of its meaning. -/

namespace Sys2Proof.Machine

-- The state is the one after the fetch and the shadow refresh (R153, R154).
def exec (i : Instr) (s : State) : Host.Outcome State Fault Refusal :=
  match i with
  | .nop => Sys2Proof.Machine.execNop s
  | .add dA dB => Sys2Proof.Machine.execAdd dA dB s
  | .sub dA dB => Sys2Proof.Machine.execSub dA dB s
  | .or dA dB => Sys2Proof.Machine.execOr dA dB s
  | .and dA dB => Sys2Proof.Machine.execAnd dA dB s
  | .xor dA dB => Sys2Proof.Machine.execXor dA dB s
  | .not dA => Sys2Proof.Machine.execNot dA s
  | .mpy dA dB => Sys2Proof.Machine.execMpy dA dB s
  | .div dA dB => Sys2Proof.Machine.execDiv dA dB s
  | .mod dA dB => Sys2Proof.Machine.execMod dA dB s
  | .ret => Sys2Proof.Machine.execRet s
  | .call dA => Sys2Proof.Machine.execCall dA s
  | .jmp dA => Sys2Proof.Machine.execJmp dA s
  | .jls dA => Sys2Proof.Machine.execJls dA s
  | .jgr dA => Sys2Proof.Machine.execJgr dA s
  | .jne dA => Sys2Proof.Machine.execJne dA s
  | .jeq dA => Sys2Proof.Machine.execJeq dA s
  | .xchg dA dB => Sys2Proof.Machine.execXchg dA dB s
  | .doCx dA => Sys2Proof.Machine.execDoCx dA s
  | .loop dA => Sys2Proof.Machine.execLoop dA s
  | .cmp dA dB => Sys2Proof.Machine.execCmp dA dB s
  | .test dA dB => Sys2Proof.Machine.execTest dA dB s
  | .mov dA dB => Sys2Proof.Machine.execMov dA dB s
  | .loc dA dB => Sys2Proof.Machine.execLoc dA dB s
  | .get dA dB => Sys2Proof.Machine.execGet dA dB s
  | .put dA dB => Sys2Proof.Machine.execPut dA dB s
  | .int dA => Sys2Proof.Machine.execInt dA s
  | .ipo dA dB => Sys2Proof.Machine.execIpo dA dB s
  | .opo dA dB => Sys2Proof.Machine.execOpo dA dB s
  | .delay dA => Sys2Proof.Machine.execDelay dA s
  | .push dA => Sys2Proof.Machine.execPush dA s
  | .pop dA => Sys2Proof.Machine.execPop dA s
  | .err dA => Sys2Proof.Machine.execErr dA s
  | .inc dA => Sys2Proof.Machine.execInc dA s
  | .dec dA => Sys2Proof.Machine.execDec dA s
  | .shl dA dB => Sys2Proof.Machine.execShl dA dB s
  | .shr dA dB => Sys2Proof.Machine.execShr dA dB s
  | .rol dA dB => Sys2Proof.Machine.execRol dA dB s
  | .ror dA dB => Sys2Proof.Machine.execRor dA dB s
  | .jz dA => Sys2Proof.Machine.execJz dA s
  | .jnz dA => Sys2Proof.Machine.execJnz dA s
  | .jae dA => Sys2Proof.Machine.execJae dA s
  | .jbe dA => Sys2Proof.Machine.execJbe dA s
  | .sal dA dB => Sys2Proof.Machine.execSal dA dB s
  | .sar dA dB => Sys2Proof.Machine.execSar dA dB s
  | .neg dA => Sys2Proof.Machine.execNeg dA s
  | .jtl dA => Sys2Proof.Machine.execJtl dA s
  | .numericLabel index x => Sys2Proof.Machine.execNumericLabel index x s
  | .symbolicLabel index x => Sys2Proof.Machine.execSymbolicLabel index x s

end Sys2Proof.Machine
end

