-- ==== Sys2Proof/Machine/Cycle.lean ====
section
/-! DEFINITION. The step of the engine around the dispatch (40_execution_cycle.md R150): disabled check, idle, fetch, label
skip, opcode dereference; and the placing of a record where the next step fetches it. -/

namespace Sys2Proof.Machine

/-- The instruction an opcode number from memory names runs; an unknown number faults with code 6 and cost 1
(40_execution_cycle.md R158, R175). -/
def runDecoded (d : Decoded) (s : State) : Result :=
  match d with
  | .instr i => exec i s
  | .reject (.reservedOpcodeNibble w0) =>
    .next (s.runtimeError none none (ErrorKind.unknownInstruction.error (some w0.toInt)))
  | .reject (.unknownOpcode opc) =>
    .next (s.runtimeError none none (ErrorKind.unknownInstruction.error (some opc.toInt)))
  | .opcodeInMemory d0 dA dB =>
    match resolveOpcode d0 s with
    | .raise e s => .next (s.runtimeError none none e)
    | .ok opc s =>
      match Opcode.ofNumber opc with
      | some o => exec (o.instr dA dB) s
      | none => .next (s.runtimeError none none (ErrorKind.unknownInstruction.error (some opc)))

/-- One step from the state in which its host answers are known (40_execution_cycle.md R150 to R158). -/
def cycle (s : State) : Result :=
  if s.now.disabled then .next { s with outcome := some .stopped }
  else if 0 < s.penalty then .next { s with penalty := s.penalty - 1, outcome := some .idle }
  else
    match s.prog[s.ip]? with
    | none => .fault .ipOutsideProgram
    | some r => runDecoded (decode r) s.fetched

/-- The record placed at `ip`, with NOP records after it so far as the trailing NOP of the launch premise asks
(70_reset_and_hazards.md R456), nothing owed, and a host that is not disabled; nothing else changes. It stands for the
load of a program from outside the machine (notes/assumptions/2.md). -/
def State.placeRecord (s : State) (r : Record) : State :=
  { s with
    prog := (s.prog ++ List.replicate (s.ip + 2 - s.prog.length) Record.nop).set s.ip r
    penalty := 0
    pending :=
      match s.pending with
      | [] => [quietHost]
      | h :: t => { h with disabled := false } :: t }

end Sys2Proof.Machine
end

