-- ==== Sys2Proof/Machine/Step.lean ====
section
/-! DEFINITION. The step, and the state whose next step runs a given record. -/

namespace Sys2Proof.Machine

/-- One invocation of the engine (40_execution_cycle.md R150). -/
def step (s : State) : Host.Outcome State Fault Refusal := cycle s.beginStep

/-- The state with an instruction's bits, numbered as spec/opcode_table.json numbers them, stored where the next step
fetches (notes/assumptions/2.md and 13.md). -/
def State.withFetchWord (s : State) (nbits w : Nat) : State := s.placeRecord (recordOfTableWord nbits w)

end Sys2Proof.Machine
end

