-- ==== Sys2Proof/Machine/Wrapper.lean ====
section
/-! DEFINITION. The Process Wrapper around the engine (70_reset_and_hazards.md R451, R462, R463), and the derived
consistency cache (10_state.md R44). The wrapper is not part of `step`. -/

namespace Sys2Proof.Machine

/-- How `RunCycles` returns (70_reset_and_hazards.md R462), and the two ways in which the model's own run can end. -/
inductive TurnEnd where
  /-- `BudgetSpent`. -/
  | budgetSpent
  /-- `Disabled`. -/
  | disabled
  /-- `Error(c, k, i)`. -/
  | error (cur : Nat) (error : RuntimeError)
  /-- A step had no next state (the launch premise is broken). -/
  | stuck
  /-- The bound on the number of steps was reached (R463 says it never is). -/
  | outOfSteps
deriving DecidableEq, Repr

/-- The loop of `RunCycles` with a budget left and a bound on the number of steps (70_reset_and_hazards.md R462). -/
def runTurn : Nat → Nat → State → TurnEnd × State
  | _, 0, s => (.budgetSpent, s)
  | 0, _ + 1, s => (.outOfSteps, s)
  | fuel + 1, left + 1, s =>
    match step s with
    | .fault _ => (.stuck, s)
    | .refused _ => (.stuck, s)
    | .next t =>
      match t.outcome with
      | some .stopped => (.disabled, t)
      | some .idle => runTurn fuel left t
      | some (.faulted cur e) =>
        match t.params.errorPolicy with
        | .stopTurn => (.error cur e, t)
        | .continueOn => runTurn fuel (left + 1) t
      | some (.skipped _) => runTurn fuel (left + 1) t
      | some (.executed _ _) => runTurn fuel (left + 1) t
      | none => runTurn fuel (left + 1) t

/-- The bound of 70_reset_and_hazards.md R463 on the steps of a turn of budget `b`. -/
def turnBound (s : State) (b : Nat) : Nat := b * (microLimit * s.prog.length + 1)

/-- `RunCycles(B)` (70_reset_and_hazards.md R462), bounded by R463. -/
def runCycles (b : Nat) (s : State) : TurnEnd × State := runTurn (turnBound s b) b s

/-- `Reset(zero)`, the wrapper's reset between rounds (70_reset_and_hazards.md R451). The program, the tables and the
host's side stay. -/
def State.wrapperReset (s : State) (zero : Bool) : State :=
  if zero then { s with ip := 0, prevIp := 0, penalty := 0, micro := 0, mem := [], stack := [] }
  else { s with ip := 0, prevIp := 0, penalty := 0, micro := 0 }

/-- A record of the consistency cache: no flag on its opcode field, and the structural check passes (10_state.md R44,
40_execution_cycle.md R160). -/
def recordConsistent (r : Record) : Bool :=
  r.opField.type == .literal && r.opField.level == 0 &&
    match Opcode.ofNumber r.w0.toInt with
    | some o => (structuralCheck o r.opA r.opB).isNone
    | none => true

/-- The cached "all instructions structurally consistent" flag, a function of the program (10_state.md R44,
40_execution_cycle.md R160). No step reads it. -/
def allConsistent (prog : List Record) : Bool := prog.all recordConsistent

end Sys2Proof.Machine
end

