-- ==== Sys2Proof/WellFormed.lean ====
section
/-! DEFINITION. Well-formed instructions: what every instruction the assembler makes from a legal line satisfies. A record
that fails it (it can arise from raw microcode, 30_encoding.md R132) still decodes and still executes: it faults with
code 6 (R124) or 3 (40_execution_cycle.md R159). -/

namespace Sys2Proof

/-- Check 1: a used operand's nibble is not reserved (30_encoding.md R124). -/
def Operand.isUsable (d : Operand) : Bool := !d.isReserved

/-- Check 2: a destination is an indirect reference without a jump flag (40_execution_cycle.md R159), and usable. -/
def Operand.isDestination (d : Operand) : Bool := d.isUsable && d.level != 0 && d.jumpKind == .none

/-- An instruction whose used operands pass the two checks, by the usage columns of 30_encoding.md R120. -/
def Instr.wellFormed : Instr → Bool
  | .nop => true
  | .add dA dB => dA.isDestination && dB.isUsable
  | .sub dA dB => dA.isDestination && dB.isUsable
  | .or dA dB => dA.isDestination && dB.isUsable
  | .and dA dB => dA.isDestination && dB.isUsable
  | .xor dA dB => dA.isDestination && dB.isUsable
  | .not dA => dA.isDestination
  | .mpy dA dB => dA.isDestination && dB.isUsable
  | .div dA dB => dA.isDestination && dB.isUsable
  | .mod dA dB => dA.isDestination && dB.isUsable
  | .ret => true
  | .call dA => dA.isUsable
  | .jmp dA => dA.isUsable
  | .jls dA => dA.isUsable
  | .jgr dA => dA.isUsable
  | .jne dA => dA.isUsable
  | .jeq dA => dA.isUsable
  | .xchg dA dB => dA.isDestination && dB.isDestination
  | .doCx dA => dA.isUsable
  | .loop dA => dA.isUsable
  | .cmp dA dB => dA.isUsable && dB.isUsable
  | .test dA dB => dA.isUsable && dB.isUsable
  | .mov dA dB => dA.isDestination && dB.isUsable
  | .loc dA dB => dA.isDestination && dB.isUsable
  | .get dA dB => dA.isDestination && dB.isUsable
  | .put dA dB => dA.isUsable && dB.isUsable
  | .int dA => dA.isUsable
  | .ipo dA dB => dA.isUsable && dB.isDestination
  | .opo dA dB => dA.isUsable && dB.isUsable
  | .delay dA => dA.isUsable
  | .push dA => dA.isUsable
  | .pop dA => dA.isDestination
  | .err dA => dA.isUsable
  | .inc dA => dA.isDestination
  | .dec dA => dA.isDestination
  | .shl dA dB => dA.isDestination && dB.isUsable
  | .shr dA dB => dA.isDestination && dB.isUsable
  | .rol dA dB => dA.isDestination && dB.isUsable
  | .ror dA dB => dA.isDestination && dB.isUsable
  | .jz dA => dA.isUsable
  | .jnz dA => dA.isUsable
  | .jae dA => dA.isUsable
  | .jbe dA => dA.isUsable
  | .sal dA dB => dA.isDestination && dB.isUsable
  | .sar dA dB => dA.isDestination && dB.isUsable
  | .neg dA => dA.isDestination
  | .jtl dA => dA.isUsable
  | .numericLabel _ _ => true
  | .symbolicLabel _ _ => true

end Sys2Proof
end

