-- ==== Sys2Proof/Safety.lean ====
section
/-! DEFINITION. What counts as a safe state, and the terms the statements use: the launch premise and the invariant of the
engine, the operand forms as relations, and the cells an instruction may store to. -/

namespace Sys2Proof.Machine

/-! ### The invariant -/

/-- Every defined entry of a label table is a record index (20_memory.md R84). -/
def tableBelow (n : Nat) (table : List (Option Nat)) : Bool :=
  table.all fun e =>
    match e with
    | none => true
    | some t => decide (t < n)

/-- The launch premise (70_reset_and_hazards.md R456): the last record is the NOP `(0, 0, 0, 0)`, so there is one, and
every defined table entry is a record index. -/
def State.launchPremise (s : State) : Bool :=
  s.prog.getLast? == some Record.nop && tableBelow s.prog.length s.numTable && tableBelow s.prog.length s.alnumTable

/-- The invariant of the engine (10_state.md R30, R31, R39 to R43, R45): the launch premise, `ip` and `prev_ip` in
`[0, N)`, `micro` below `MICRO_LIMIT`, memory and stack in canonical form over their cells. -/
structure State.Inv (s : State) : Prop where
  /-- The launch premise (70_reset_and_hazards.md R456). -/
  launch : s.launchPremise = true
  /-- `0 <= ip < N` (10_state.md R40). -/
  ip : s.ip < s.prog.length
  /-- `0 <= prev_ip < N` (10_state.md R41). -/
  prevIp : s.prevIp < s.prog.length
  /-- `0 <= micro < MICRO_LIMIT` (10_state.md R43). -/
  micro : s.micro < microLimit
  /-- The memory is canonical over 1024 cells (10_state.md R31). -/
  mem : Memory.wf s.mem = true
  /-- The stack is canonical over `STACK_SIZE` slots (10_state.md R39). -/
  stack : Cells.wf s.params.stackSize s.stack = true

/-- A turn that ends as 70_reset_and_hazards.md R463 says: budget spent, disabled, or a fault. -/
def TurnEnd.isRegular : TurnEnd → Bool
  | .budgetSpent | .disabled | .error _ _ => true
  | .stuck | .outOfSteps => false

/-! ### Operand forms -/

/-- Operand `d` with usage `r` reads `v`; `t` is the state after its shunt reads (40_execution_cycle.md R162 to R164). -/
def ReadsValue (d : Operand) (s : State) (v : Int) (t : State) : Prop :=
  ∃ addr, resolve d .r s = .ok ⟨addr, some v⟩ t

/-- Operand `d` with usage `jump` reads the label index `n` (40_execution_cycle.md R167). -/
def ReadsLabel (d : Operand) (s : State) (n : Int) (t : State) : Prop :=
  ∃ addr, resolve d .jump s = .ok ⟨addr, some n⟩ t

/-- Operand `d` with usage `w` is a destination at address `a` (40_execution_cycle.md R159, R162, R165). -/
def IsDestination (d : Operand) (s : State) (a : Int) (t : State) : Prop :=
  structurallyBad d .w = false ∧ resolve d .w s = .ok ⟨some a, none⟩ t

/-- Operand `d` with usage `rw` is a destination at address `a` that holds `v` (40_execution_cycle.md R159, R162, R163,
R165). -/
def IsReadDestination (d : Operand) (s : State) (a v : Int) (t : State) : Prop :=
  structurallyBad d .rw = false ∧ resolve d .rw s = .ok ⟨some a, some v⟩ t

/-- Operand `d` with usage `addr` has the effective address `a` (40_execution_cycle.md R166). -/
def HasEffectiveAddress (d : Operand) (s : State) (a : Int) (t : State) : Prop :=
  resolve d .addr s = .ok ⟨some a, none⟩ t

/-! ### Frames -/

/-- The state after an operand was resolved, whether or not it faulted. -/
def stateAfter (d : Operand) (u : Usage) (s : State) : State :=
  match resolve d u s with
  | .ok _ t => t
  | .raise _ t => t

/-- The cell a destination operand stores to: the address part of its resolution (40_execution_cycle.md R162); none for a
negative address, which is no cell. -/
def destinationCell (d : Operand) (s : State) : Option Nat :=
  match operandAddress d s with
  | .ok (some a) _ => if a < 0 then none else some a.toNat
  | .ok none _ => none
  | .raise _ _ => none

/-- The cell PUT stores to: the value of B, resolved after A (45_move.md R334); none for a negative value. -/
def putCell (dA dB : Operand) (s : State) : Option Nat :=
  match resolve dB .r (stateAfter dA .r s) with
  | .ok b _ => if b.value < 0 then none else some b.value.toNat
  | .raise _ _ => none

/-- The instructions whose only store is to operand A (30_encoding.md R120: usage `w` or `rw` of A alone): ADD SUB OR AND
XOR NOT MPY DIV MOD INC DEC NEG SHL SHR ROL ROR SAL SAR MOV LOC GET. -/
def storesOnlyA : Instr → Option Operand
  | .add d _ | .sub d _ | .or d _ | .and d _ | .xor d _ | .not d | .mpy d _ | .div d _ | .mod d _ | .inc d | .dec d
  | .neg d | .shl d _ | .shr d _ | .rol d _ | .ror d _ | .sal d _ | .sar d _ | .mov d _ | .loc d _ | .get d _ => some d
  | _ => none

/-- The instructions that store to no cell and to no stack slot: NOP DELAY ERR OPO JMP JTL JLS JGR JNE JEQ JZ JNZ JAE JBE
and the label markers. -/
def storesNothing : Instr → Bool
  | .nop | .delay _ | .err _ | .opo _ _ | .jmp _ | .jtl _ | .jls _ | .jgr _ | .jne _ | .jeq _ | .jz _ | .jnz _
  | .jae _ | .jbe _ | .numericLabel _ _ | .symbolicLabel _ _ => true
  | _ => false

/-- What no instruction writes: `prev_ip` (10_state.md R41), the launch constants (R45), and the host's later answers. -/
structure SameFixtures (s t : State) : Prop where
  /-- `prev_ip`. -/
  prevIp : t.prevIp = s.prevIp
  /-- The program. -/
  prog : t.prog = s.prog
  /-- `NUM_TABLE`. -/
  numTable : t.numTable = s.numTable
  /-- `ALNUM_TABLE`. -/
  alnumTable : t.alnumTable = s.alnumTable
  /-- The OPEN parameters. -/
  params : t.params = s.params
  /-- The later answers of the host. -/
  pending : t.pending = s.pending
  /-- The count of the steps begun. -/
  hostClock : t.hostClock = s.hostClock

/-- Every cell reads as before, but for those `p` names. -/
def SameCellsBut (p : Nat → Prop) (s t : State) : Prop := ∀ c, ¬ p c → t.cell c = s.cell c

/-- Every stack slot reads as before, but for those `p` names. -/
def SameSlotsBut (p : Nat → Prop) (s t : State) : Prop := ∀ k, ¬ p k → t.stack.get k = s.stack.get k

/-- The codes the host reports (60_exceptions.md R400, R402). -/
def reportedCode : HostError → Int
  | .queueEmpty => 12
  | .noMineLayer => 13
  | .noMinesLeft => 14
  | .noShield => 15
  | .inputOutOfBounds => 18

/-- The word `w` holds the value `v`, where `v` is an `i16` (00_scope.md R8); of a value outside, nothing is said
(notes/assumptions/10.md). -/
def Holds (w : Word) (v : Int) : Prop := -32768 ≤ v → v < 32768 → w.toInt = v

/-- The shape of a step's host calls (40_execution_cycle.md R179). -/
def CallOrder (calls : List HostCall) : Prop :=
  calls = [.disabled] ∨
  ∃ (as : List Int) (last : List HostCall),
    calls = [.disabled, .shadow] ++ as.map HostCall.shuntRead ++ last ∧
    (last = [] ∨ (∃ p, last = [.portIn p]) ∨ (∃ p v, last = [.portOut p v]) ∨ ∃ n regs, last = [.interrupt n regs])

end Sys2Proof.Machine
end

