-- ==== Sys2Proof/Certificates/Slice0/Obligations.lean ====
section
/-! DEFINITION. The statements for the provers. Each docstring names the rule of spec/ it comes from. -/

open Sys2Proof Sys2Proof.Machine

/-! ### Encoding -/

/-- 30_encoding.md R110, R119, R120: no bit of an encoding is dropped, for every instruction and every operand. -/
def Obligations.DecodeOfEncode : Prop := ∀ i : Instr, decode (encode i) = .instr i

/-- 30_encoding.md R110: a record's three descriptors and its four words are bit-exact inverses of each other (bits 15:12
of the modifier word belong to no descriptor). -/
def Obligations.DescriptorsInverseOfWords : Prop :=
  (∀ r : Record, r.w1.extractLsb' 12 4 = 0 → Record.ofDescriptors r.opField r.opA r.opB = r) ∧
  (∀ d0 dA dB : Operand,
    (Record.ofDescriptors d0 dA dB).opField = d0 ∧ (Record.ofDescriptors d0 dA dB).opA = dA ∧
    (Record.ofDescriptors d0 dA dB).opB = dB)

/-- 30_encoding.md R116: bits 15:12 of the modifier word change nothing of what a record decodes to and so of what runs,
and make `is_data` true where they are not all 0. -/
def Obligations.UpperModifierBitsIgnored : Prop :=
  (∀ (r : Record) (u : BitVec 4), decode { r with w1 := u ++ r.w1.extractLsb' 0 12 } = decode r) ∧
  (∀ (r : Record) (u : BitVec 4) (s : State),
    runDecoded (decode { r with w1 := u ++ r.w1.extractLsb' 0 12 }) s = runDecoded (decode r) s) ∧
  (∀ r : Record, r.w1.extractLsb' 12 4 ≠ 0 → r.isData = true)

/-- 30_encoding.md R117: `is_data`, defined by re-encoding, is the closed form the rule gives. -/
def Obligations.IsDataClosedForm : Prop :=
  ∀ r : Record, r.isData = true ↔
    ((r.w1.extractLsb' 0 3).toNat ∈ [3, 5, 6, 7] ∨ (r.w1.extractLsb' 4 3).toNat ∈ [3, 5, 6, 7] ∨
      (r.w1.extractLsb' 8 3).toNat ∈ [3, 5, 6, 7] ∨ r.w1.extractLsb' 12 4 ≠ 0 ∨
      ((r.w1.extractLsb' 0 3).toNat ∈ [2, 4] ∧ r.w1.getLsbD 3 = true))

/-- 95_test_vectors.md X1, X3: records the spec writes out decode to the instructions it says. -/
def Obligations.SpecRecordsDecode : Prop :=
  decode ⟨22, 0x0010, 1, 3⟩ = .instr (.mov ⟨1, .indirectOne, false⟩ ⟨3, .literal, false⟩) ∧
  decode ⟨1, 0x0010, 1, 4⟩ = .instr (.add ⟨1, .indirectOne, false⟩ ⟨4, .literal, false⟩) ∧
  decode ⟨12, 0x0020, 0, 0⟩ = .instr (.jmp ⟨0, .numericJump, false⟩) ∧
  decode ⟨27, 0x0100, 2, 1⟩ = .instr (.ipo ⟨2, .literal, false⟩ ⟨1, .indirectOne, false⟩) ∧
  decode ⟨26, 0x0000, 2, 0⟩ = .instr (.int ⟨2, .literal, false⟩) ∧
  decode ⟨1, 0x0002, 0, 0⟩ = .instr (.numericLabel 1 false)

/-- 30_encoding.md R119, R122 to R124, R126: what the opcode nibble and the opcode number make of a record. -/
def Obligations.OpcodeFieldKinds : Prop :=
  ∀ r : Record,
    ((r.w1.extractLsb' 0 3).toNat = 2 → decode r = .instr (.numericLabel r.w0 (r.w1.getLsbD 3))) ∧
    ((r.w1.extractLsb' 0 3).toNat = 4 → decode r = .instr (.symbolicLabel r.w0 (r.w1.getLsbD 3))) ∧
    ((r.w1.extractLsb' 0 3).toNat ∈ [3, 5, 6, 7] → decode r = .reject (.reservedOpcodeNibble r.w0)) ∧
    ((r.w1.extractLsb' 0 4).toNat ∈ [1, 8, 9] → decode r = .opcodeInMemory r.opField r.opA r.opB) ∧
    ((r.w1.extractLsb' 0 4).toNat = 0 → 46 < r.w0.toNat → decode r = .reject (.unknownOpcode r.w0)) ∧
    ((r.w1.extractLsb' 0 4).toNat = 0 → r.w0.toNat ≤ 46 →
      ∃ o : Opcode, o.number = r.w0.toNat ∧ decode r = .instr (o.instr r.opA r.opB))

/-! ### The step -/

/-- 40_execution_cycle.md R150, R153, R171: where the record at `ip` decodes to an instruction, the step is `exec` of it
at the state after the fetch (which `FetchAdvancesAndRefreshes` describes). -/
def Obligations.StepRunsDecodedInstruction : Prop :=
  ∀ (s : State) (r : Record) (i : Instr), s.beginStep.now.disabled = false → s.penalty = 0 → s.prog[s.ip]? = some r →
    decode r = .instr i → step s = exec i s.beginStep.fetched

/-- 40_execution_cycle.md R157, 20_memory.md R96: where the opcode field is at level 1 or 2, the number read through
`MemRead` when the record executes names the instruction the step runs. -/
def Obligations.StepRunsOpcodeFromMemory : Prop :=
  ∀ (s t : State) (r : Record) (d0 dA dB : Operand) (opc : Word) (o : Opcode),
    s.beginStep.now.disabled = false → s.penalty = 0 → s.prog[s.ip]? = some r →
    decode r = .opcodeInMemory d0 dA dB → opc.toInt = o.number →
    ((d0.level = 1 ∧ memRead d0.value.toInt s.beginStep.fetched = .ok opc t) ∨
      (d0.level = 2 ∧ ∃ (p : Word) (u : State),
        memRead d0.value.toInt s.beginStep.fetched = .ok p u ∧ memRead p.toInt u = .ok opc t)) →
    step s = exec (o.instr dA dB) t

/-- 40_execution_cycle.md R156, R157, R158, R175: the faults of the opcode field, each of cost 1. -/
def Obligations.OpcodeFieldFaults : Prop :=
  ∀ (s : State) (r : Record), s.beginStep.now.disabled = false → s.penalty = 0 → s.prog[s.ip]? = some r →
    (∀ w0, decode r = .reject (.reservedOpcodeNibble w0) →
      step s = .next { s.beginStep.fetched with
        penalty := 1, micro := 0, outcome := some (.faulted s.ip ⟨6, some w0.toInt⟩) }) ∧
    (∀ opc, decode r = .reject (.unknownOpcode opc) →
      step s = .next { s.beginStep.fetched with
        penalty := 1, micro := 0, outcome := some (.faulted s.ip ⟨6, some opc.toInt⟩) }) ∧
    (∀ d0 dA dB e t, decode r = .opcodeInMemory d0 dA dB → resolveOpcode d0 s.beginStep.fetched = .raise e t →
      step s = .next { t with penalty := 1, micro := 0, outcome := some (.faulted s.ip e) }) ∧
    (∀ d0 dA dB opc t, decode r = .opcodeInMemory d0 dA dB → resolveOpcode d0 s.beginStep.fetched = .ok opc t →
      opc < 0 ∨ 46 < opc →
      step s = .next { t with penalty := 1, micro := 0, outcome := some (.faulted s.ip ⟨6, some opc⟩) })

/-- 40_execution_cycle.md R151, R152: a disabled step changes nothing and is `Stopped`; otherwise a step with a penalty
owed only decrements it and is `Idle`. Only `Host.disabled` is asked. -/
def Obligations.StoppedAndIdleSteps : Prop :=
  ∀ s : State,
    (s.beginStep.now.disabled = true → step s = .next { s.beginStep with outcome := some .stopped }) ∧
    (s.beginStep.now.disabled = false → 0 < s.penalty →
      step s = .next { s.beginStep with penalty := s.penalty - 1, outcome := some .idle }) ∧
    (∃ now pending,
      s.beginStep = { s with now := now, pending := pending, hostClock := s.hostClock + 1, calls := [.disabled] })

/-- 40_execution_cycle.md R153, R154, 10_state.md R41: the fetch advances `ip` with the wrap at the program's end, keeps
the index in `prev_ip`, refreshes the shadow cells, and changes no other cell and no other engine register. -/
def Obligations.FetchAdvancesAndRefreshes : Prop :=
  ∀ s : State,
    s.fetched.prevIp = s.ip ∧ s.fetched.ip = (s.ip + 1) % s.prog.length ∧
    s.fetched.cell 8 = s.now.shadow.c8 ∧ s.fetched.cell 9 = s.now.shadow.c9 ∧ s.fetched.cell 10 = s.now.shadow.c10 ∧
    s.fetched.cell 11 = s.now.shadow.c11 ∧ s.fetched.cell 12 = s.now.shadow.c12 ∧
    s.fetched.cell 13 = s.now.shadow.c13 ∧
    SameCellsBut (fun c => 8 ≤ c ∧ c ≤ 13) s s.fetched ∧ s.fetched.stack = s.stack ∧ s.fetched.penalty = s.penalty ∧
    s.fetched.micro = s.micro ∧ s.fetched.prog = s.prog ∧ s.fetched.calls = s.calls ++ [.shadow]

/-- 40_execution_cycle.md R150, R173, R175, R176: the commit, and that it changes nothing but `penalty` and `micro`; that an
instruction that executed commits `Penalty(opc, argA)`, and one that faulted `FaultCost(opc, argA)`, which is the same for
a known opcode and 1 for none. -/
def Obligations.CommitChargesAndCounts : Prop :=
  (∀ (s : State) (c : Nat),
    (c = 0 → s.micro + 1 < 20 → s.commit c = { s with penalty := 0, micro := s.micro + 1 }) ∧
    (c = 0 → 20 ≤ s.micro + 1 → s.commit c = { s with penalty := 1, micro := 0 }) ∧
    (c ≠ 0 → s.commit c = { s with penalty := c, micro := 0 })) ∧
  (∀ (s : State) (o : Opcode) (arg : Option Int),
    s.executed o arg = { s.commit (penaltyOf s.params o arg) with outcome := some (.executed s.prevIp o) }) ∧
  (∀ (s : State) (o : Option Opcode) (arg : Option Int) (e : RuntimeError),
    s.runtimeError o arg e = { s.commit (faultCost s.params o arg) with outcome := some (.faulted s.prevIp e) }) ∧
  (∀ (p : Params) (o : Opcode) (arg : Option Int), faultCost p (some o) arg = penaltyOf p o arg ∧ faultCost p none arg = 1)

/-- 40_execution_cycle.md R174, R175: the default cost table, on a resolved argument and on none; and the cost of DELAY,
INT, IPO and OPO with no resolved argument under every cost table. -/
def Obligations.DefaultCosts : Prop :=
  (∀ (p : Params) (opc : Opcode) (arg : Option Int), p.opcodeCost = [] → p.argCost = [] →
    (opc ∈ [Opcode.jls, .jgr, .jne, .jeq, .jz, .jnz, .jae, .jbe] → penaltyOf p opc arg = 0) ∧
    (opc = .delay → ∀ a, arg = some a → (penaltyOf p opc arg : Int) = max 1 a) ∧
    (opc = .delay → arg = none → penaltyOf p opc arg = 1) ∧
    (opc ∉ [Opcode.jls, .jgr, .jne, .jeq, .jz, .jnz, .jae, .jbe, .delay] → penaltyOf p opc arg = 1) ∧
    faultCost p none arg = 1) ∧
  (∀ (p : Params) (opc : Opcode), opc ∈ [Opcode.delay, .int, .ipo, .opo] → penaltyOf p opc none = 1)

/-- 40_execution_cycle.md R152, R177: `n` owed cycles are spent by the next `n` steps, which change nothing else of the
engine. -/
def Obligations.OwedCyclesAreIdle : Prop :=
  ∀ (n : Nat) (s : State), s.penalty = n → n ≤ s.pending.length → (∀ h ∈ s.pending.take n, h.disabled = false) →
    ∃ t : State, Sys2Proof.core.run n s = .next t ∧ t.penalty = 0 ∧ t.mem = s.mem ∧ t.stack = s.stack ∧ t.ip = s.ip ∧
      t.prevIp = s.prevIp ∧ t.micro = s.micro ∧ t.prog = s.prog ∧ t.pending = s.pending.drop n ∧
      (0 < n → t.outcome = some .idle)

/-- 10_state.md R45, 20_memory.md R79, R84: no step changes the program, the label tables or a parameter. -/
def Obligations.LaunchConstantsNeverChange : Prop :=
  ∀ s t : State, step s = .next t →
    t.prog = s.prog ∧ t.numTable = s.numTable ∧ t.alnumTable = s.alnumTable ∧ t.params = s.params

/-- 10_state.md R30, R31, R39 to R43, 60_exceptions.md R422: every step keeps the invariant, from every state. -/
def Obligations.StepKeepsInvariant : Prop := ∀ s t : State, s.Inv → step s = .next t → t.Inv

/-- 60_exceptions.md R422, 70_reset_and_hazards.md R456: under the invariant every step has a next state. -/
def Obligations.StepHasNextState : Prop := ∀ s : State, s.Inv → ∃ t : State, step s = .next t

/-- The state after reset meets the invariant. The program it holds is the model's choice (notes/assumptions/1.md). -/
def Obligations.ResetMeetsInvariant : Prop := State.reset.Inv

/-- 70_reset_and_hazards.md R450: the values after the program-load reset. -/
def Obligations.ResetValues : Prop :=
  (∀ c, State.reset.cell c = 0) ∧ (∀ k, State.reset.stack.get k = 0) ∧ State.reset.ip = 0 ∧ State.reset.prevIp = 0 ∧
  State.reset.penalty = 0 ∧ State.reset.micro = 0

/-- 70_reset_and_hazards.md R451: the wrapper's reset, with and without zeroing. -/
def Obligations.WrapperResetValues : Prop :=
  ∀ (s : State) (zero : Bool),
    (s.wrapperReset zero).ip = 0 ∧ (s.wrapperReset zero).prevIp = 0 ∧ (s.wrapperReset zero).penalty = 0 ∧
    (s.wrapperReset zero).micro = 0 ∧
    (zero = true → ∀ c, (s.wrapperReset zero).cell c = 0 ∧ (s.wrapperReset zero).stack.get c = 0) ∧
    (zero = false → (s.wrapperReset zero).mem = s.mem ∧ (s.wrapperReset zero).stack = s.stack) ∧
    (s.wrapperReset zero).prog = s.prog ∧ (s.wrapperReset zero).numTable = s.numTable ∧
    (s.wrapperReset zero).alnumTable = s.alnumTable

/-- 70_reset_and_hazards.md R462, R463, 40_execution_cycle.md R178: from every state of the invariant, a turn of any budget ends,
within `B * (MICRO_LIMIT * N + 1)` steps, in one of the three ways; with an error only under `StopTurn`. That `runCycles`
runs with this bound, and the two ends of its own that `isRegular` excludes, are the model's choice
(notes/assumptions/18.md). -/
def Obligations.TurnAlwaysEnds : Prop :=
  ∀ (s : State) (b : Nat), s.Inv →
    (runCycles b s).1.isRegular = true ∧
    (∀ cur e, (runCycles b s).1 = .error cur e → s.params.errorPolicy = .stopTurn)

/-! ### Memory and operands -/

/-- 20_memory.md R92: a read gives the value of the most recent write, but for a shunt read the host answers; a write
leaves what every other address reads as. -/
def Obligations.ReadAfterWrite : Prop :=
  ∀ (s t : State) (a : Int) (v : Word), memWrite a v s = .ok () t →
    ((a < 512 ∨ 768 ≤ a ∨ t.now.shunt.head?.join = none) → ∃ u, memRead a t = .ok v u) ∧
    (∀ (b : Int) (w : Word) (u : State), b ≠ a → memRead b s = .ok w u → ∃ u', memRead b t = .ok w u') ∧
    (∀ (b : Int) (e : RuntimeError) (u : State), memRead b s = .raise e u → memRead b t = .raise e t)

/-- 20_memory.md R71 to R75: what a read of each region of the data space answers; no word above address 32767 is readable.
That a read there faults with code 4 is the model's reading (notes/assumptions/22.md). -/
def Obligations.MemReadByRegion : Prop :=
  ∀ (s : State) (a : Int),
    (a < 0 ∨ 1024 + 4 * (s.prog.length : Int) ≤ a ∨ 32767 < a → memRead a s = .raise ⟨4, some a⟩ s) ∧
    ((0 ≤ a ∧ a < 512) ∨ (768 ≤ a ∧ a < 1024) → memRead a s = .ok (s.cell a.toNat) s) ∧
    (512 ≤ a → a < 768 →
      memRead a s = .ok ((s.now.shunt.head?.join).getD (s.cell a.toNat))
        { s with now := { s.now with shunt := s.now.shunt.tail }, calls := s.calls ++ [.shuntRead a] }) ∧
    (∀ (i k : Nat) (r : Record), a = 1024 + 4 * (i : Int) + k → k < 4 → i ≤ 7935 → s.prog[i]? = some r →
      memRead a s = .ok (match k with | 0 => r.w0 | 1 => r.w1 | 2 => r.w2 | _ => r.w3) s)

/-- 20_memory.md R76: writes succeed exactly at addresses 0 to 1023, and then store one cell. -/
def Obligations.MemWriteByRegion : Prop :=
  ∀ (s : State) (a : Int) (v : Word),
    (a < 0 ∨ 1024 + 4 * (s.prog.length : Int) ≤ a → memWrite a v s = .raise ⟨4, some a⟩ s) ∧
    (1024 ≤ a → a < 1024 + 4 * (s.prog.length : Int) → memWrite a v s = .raise ⟨3, some a⟩ s) ∧
    (0 ≤ a → a < 1024 → ∃ t, memWrite a v s = .ok () t ∧ t.cell a.toNat = v ∧
      SameCellsBut (fun c => c = a.toNat) s t ∧ t = { s with mem := t.mem })

/-- 40_execution_cycle.md R162, R163, R167, 30_encoding.md R114, R124: what the value of an operand is read from at each
level, for a jump operand (with or without a jump flag) and for a read operand without one; that the faults of these
reads are the operand's; and the fault of a reserved nibble. -/
def Obligations.ReadOperandLevels : Prop :=
  ∀ (d : Operand) (s : State),
    (d.isReserved = true → ∀ u, u ≠ .none → resolve d u s = .raise ⟨6, some d.value.toInt⟩ s) ∧
    resolve d .none s = .ok ⟨none, none⟩ s ∧
    (d.isReserved = false → ∀ u, u = .jump ∨ (u = .r ∧ d.jumpKind = .none) →
      (d.level = 0 → resolve d u s = .ok ⟨none, some d.value.toInt⟩ s) ∧
      (d.level = 1 → ∀ v t, memRead d.value.toInt s = .ok v t →
        resolve d u s = .ok ⟨some d.value.toInt, some v.toInt⟩ t) ∧
      (d.level = 2 → ∀ p t v x, memRead d.value.toInt s = .ok p t → memRead p.toInt t = .ok v x →
        resolve d u s = .ok ⟨some p.toInt, some v.toInt⟩ x)) ∧
    (d.isReserved = false → ∀ u, u = .jump ∨ u = .r ∨ u = .rw →
      (0 < d.level → ∀ e t, memRead d.value.toInt s = .raise e t → resolve d u s = .raise e t) ∧
      (d.level = 2 → ∀ p t e x, memRead d.value.toInt s = .ok p t → memRead p.toInt t = .raise e x →
        resolve d u s = .raise e x))

/-- 40_execution_cycle.md R164, R167, 20_memory.md R84: a jump-flagged read operand gives the record index of the label its
raw value names (the value `ReadOperandLevels` gives for usage `jump`), whatever its size, or faults with 2 (numeric) or 9
(symbolic). -/
def Obligations.LabelOperandReadsRecordIndex : Prop :=
  ∀ (d : Operand) (s t : State) (addr : Option Int) (n : Int), resolve d .jump s = .ok ⟨addr, some n⟩ t →
    (d.jumpKind = .none → resolve d .r s = .ok ⟨addr, some n⟩ t) ∧
    (d.jumpKind = .numeric →
      (∀ k : Nat, 0 ≤ n → s.numTable[n.toNat]? = some (some k) → resolve d .r s = .ok ⟨addr, some (k : Int)⟩ t) ∧
      (n < 0 ∨ (s.numTable[n.toNat]?).join = none → resolve d .r s = .raise ⟨2, some n⟩ t)) ∧
    (d.jumpKind = .symbolic →
      (∀ k : Nat, 0 ≤ n → s.alnumTable[n.toNat]? = some (some k) → resolve d .r s = .ok ⟨addr, some (k : Int)⟩ t) ∧
      (n < 0 ∨ (s.alnumTable[n.toNat]?).join = none → resolve d .r s = .raise ⟨9, some n⟩ t))

/-- 40_execution_cycle.md R162, R163, R165: a destination at level 1 or 2, its address checked writable; with usage `w` its
value is not read, with `rw` it is; the faults of the check under both usages, and that of a level-2 destination's
pointer read. -/
def Obligations.DestinationLevels : Prop :=
  (∀ (d : Operand) (s t : State) (a : Int), d.isReserved = false →
    ((d.level = 1 ∧ a = d.value.toInt ∧ t = s) ∨
      (d.level = 2 ∧ ∃ p : Word, a = p.toInt ∧ memRead d.value.toInt s = .ok p t)) →
    (0 ≤ a → a < 1024 → resolve d .w s = .ok ⟨some a, none⟩ t) ∧
    (∀ u, u = .w ∨ (u = .rw ∧ d.jumpKind = .none) →
      (1024 ≤ a → a < 1024 + 4 * (s.prog.length : Int) → resolve d u s = .raise ⟨3, some a⟩ t) ∧
      (a < 0 ∨ 1024 + 4 * (s.prog.length : Int) ≤ a → resolve d u s = .raise ⟨4, some a⟩ t)) ∧
    (∀ v x, 0 ≤ a → a < 1024 → d.jumpKind = .none → memRead a t = .ok v x →
      resolve d .rw s = .ok ⟨some a, some v.toInt⟩ x)) ∧
  (∀ (d : Operand) (s t : State) (e : RuntimeError) (u : Usage), d.isReserved = false → u = .w ∨ u = .rw →
    d.level = 2 → memRead d.value.toInt s = .raise e t → resolve d u s = .raise e t)

/-- 40_execution_cycle.md R166: the effective address of LOC's operand B at each level, without a read at that address, and
replaced by its table entry where the operand has a jump flag. -/
def Obligations.EffectiveAddressLevels : Prop :=
  (∀ (d : Operand) (s t : State) (b : Int), d.isReserved = false →
    ((d.level ≤ 1 ∧ b = d.value.toInt ∧ t = s) ∨
      (d.level = 2 ∧ ∃ p : Word, b = p.toInt ∧ memRead d.value.toInt s = .ok p t)) →
    (d.jumpKind = .none → HasEffectiveAddress d s b t) ∧
    (d.jumpKind = .numeric →
      (∀ k : Nat, 0 ≤ b → s.numTable[b.toNat]? = some (some k) → HasEffectiveAddress d s k t) ∧
      (b < 0 ∨ (s.numTable[b.toNat]?).join = none → resolve d .addr s = .raise ⟨2, some b⟩ t)) ∧
    (d.jumpKind = .symbolic →
      (∀ k : Nat, 0 ≤ b → s.alnumTable[b.toNat]? = some (some k) → HasEffectiveAddress d s k t) ∧
      (b < 0 ∨ (s.alnumTable[b.toNat]?).join = none → resolve d .addr s = .raise ⟨9, some b⟩ t))) ∧
  (∀ (d : Operand) (s t : State) (e : RuntimeError), d.isReserved = false → d.level = 2 →
    memRead d.value.toInt s = .raise e t → resolve d .addr s = .raise e t)

/-- 40_execution_cycle.md R159, R175: a destination at level 0 or with a jump flag faults with code 3 and its field word
before any operand is resolved, at the opcode's own cost with no argument; A is checked before B. Only the penalty
registers and the outcome change. -/
def Obligations.NonIndirectDestinationFaults : Prop :=
  ∀ (dA dB : Operand) (s : State) (i : Instr) (d : Operand), (d.level = 0 ∨ d.jumpKind ≠ .none) →
    (storesOnlyA i = some d ∨ i = .pop d ∨ i = .xchg d dB ∨
      (i = .xchg dA d ∧ dA.level ≠ 0 ∧ dA.jumpKind = .none) ∨ i = .ipo dA d) →
    (∃ (o : Opcode) (x y : Operand), i = o.instr x y ∧
      exec i s = .next (s.runtimeError (some o) none ⟨3, some d.value.toInt⟩)) ∧
    ∃ t, exec i s = .next t ∧ t.outcome = some (.faulted s.prevIp ⟨3, some d.value.toInt⟩) ∧
      t = { s with penalty := t.penalty, micro := t.micro, outcome := t.outcome }

/-- 40_execution_cycle.md R150, R161, R173, R175, 60_exceptions.md R405: of every opcode whose structural check passes, a
fault of A's resolution is the instruction's fault, with no argument resolved, and nothing of B is resolved; after A
resolved, a fault of B's resolution is the instruction's fault, with A's value as the argument. -/
def Obligations.OperandFaultsEndTheInstruction : Prop :=
  ∀ (o : Opcode) (dA dB : Operand) (s : State),
    (useA o = .w ∨ useA o = .rw → dA.level ≠ 0 ∧ dA.jumpKind = .none) →
    (useB o = .w ∨ useB o = .rw → dB.level ≠ 0 ∧ dB.jumpKind = .none) →
    (∀ e t, resolve dA (useA o) s = .raise e t → exec (o.instr dA dB) s = .next (t.runtimeError (some o) none e)) ∧
    (∀ a t e u, resolve dA (useA o) s = .ok a t → resolve dB (useB o) t = .raise e u →
      exec (o.instr dA dB) s = .next (u.runtimeError (some o) a.val e))

/-! ### Results -/

/-- 41_arithmetic.md R200, R201, R202. -/
def Obligations.AddSubMpyResults : Prop :=
  ∀ (dA dB : Operand) (s t u : State) (addr a b : Int), IsReadDestination dA s addr a t → ReadsValue dB t b u →
    exec (.add dA dB) s = .next ((u.setCell addr.toNat (wrap16 (a + b))).executed .add (some a)) ∧
    exec (.sub dA dB) s = .next ((u.setCell addr.toNat (wrap16 (a - b))).executed .sub (some a)) ∧
    exec (.mpy dA dB) s = .next ((u.setCell addr.toNat (wrap16 (a * b))).executed .mpy (some a))

/-- 41_arithmetic.md R203, R204, R208: truncating division and its remainder, and the one arithmetic fault, which writes
nothing. -/
def Obligations.DivModResults : Prop :=
  ∀ (dA dB : Operand) (s t u : State) (addr a b : Int), IsReadDestination dA s addr a t → ReadsValue dB t b u →
    (b ≠ 0 →
      exec (.div dA dB) s =
        .next ((u.setCell addr.toNat (wrap16 (Int.tdiv a b))).executed .div (some a)) ∧
      ∃ r : Word, r.toInt = Int.tmod a b ∧
        exec (.mod dA dB) s = .next ((u.setCell addr.toNat r).executed .mod (some a))) ∧
    (b = 0 →
      exec (.div dA dB) s = .next (u.runtimeError (some .div) (some a) ⟨8, none⟩) ∧
      exec (.mod dA dB) s = .next (u.runtimeError (some .mod) (some a) ⟨8, none⟩))

/-- 41_arithmetic.md R205, R206, R207, 42_bitwise_shift.md R233. -/
def Obligations.UnaryResults : Prop :=
  ∀ (dA : Operand) (s t : State) (addr a : Int), IsReadDestination dA s addr a t →
    exec (.inc dA) s = .next ((t.setCell addr.toNat (wrap16 (a + 1))).executed .inc (some a)) ∧
    exec (.dec dA) s = .next ((t.setCell addr.toNat (wrap16 (a - 1))).executed .dec (some a)) ∧
    exec (.neg dA) s = .next ((t.setCell addr.toNat (wrap16 (0 - a))).executed .neg (some a)) ∧
    exec (.not dA) s = .next ((t.setCell addr.toNat (wrap16 (-a - 1))).executed .not (some a))

/-- 42_bitwise_shift.md R230, R231, R232. -/
def Obligations.OrAndXorResults : Prop :=
  ∀ (dA dB : Operand) (s t u : State) (addr a b : Int), IsReadDestination dA s addr a t → ReadsValue dB t b u →
    exec (.or dA dB) s = .next ((u.setCell addr.toNat (u16 a ||| u16 b)).executed .or (some a)) ∧
    exec (.and dA dB) s = .next ((u.setCell addr.toNat (u16 a &&& u16 b)).executed .and (some a)) ∧
    exec (.xor dA dB) s = .next ((u.setCell addr.toNat (u16 a ^^^ u16 b)).executed .xor (some a))

/-- 42_bitwise_shift.md R234 to R240, in the 16-bit shifts and rotates of bit vectors: the count is the low four bits of
B; SAR fills with the sign. -/
def Obligations.ShiftRotateResults : Prop :=
  ∀ (dA dB : Operand) (s t u : State) (addr a b : Int), IsReadDestination dA s addr a t → ReadsValue dB t b u →
    exec (.shl dA dB) s = .next ((u.setCell addr.toNat (u16 a <<< ((u16 b).toNat % 16))).executed .shl (some a)) ∧
    exec (.sal dA dB) s = .next ((u.setCell addr.toNat (u16 a <<< ((u16 b).toNat % 16))).executed .sal (some a)) ∧
    exec (.shr dA dB) s = .next ((u.setCell addr.toNat (u16 a >>> ((u16 b).toNat % 16))).executed .shr (some a)) ∧
    exec (.sar dA dB) s = .next ((u.setCell addr.toNat ((u16 a).sshiftRight ((u16 b).toNat % 16))).executed .sar (some a)) ∧
    exec (.rol dA dB) s = .next ((u.setCell addr.toNat ((u16 a).rotateLeft ((u16 b).toNat % 16))).executed .rol (some a)) ∧
    exec (.ror dA dB) s = .next ((u.setCell addr.toNat ((u16 a).rotateRight ((u16 b).toNat % 16))).executed .ror (some a))

/-- 43_compare_jump.md R260: CMP sets E, L, G and Z from the signed values, keeps bits 15:4, and writes nothing else. -/
def Obligations.CmpSetsFlags : Prop :=
  ∀ (dA dB : Operand) (s t u : State) (a b : Int), ReadsValue dA s a t → ReadsValue dB t b u →
    ∃ f : Word, exec (.cmp dA dB) s = .next ((u.setCell 0 f).executed .cmp (some a)) ∧
      (f.getLsbD 0 = true ↔ a = b) ∧ (f.getLsbD 1 = true ↔ a < b) ∧
      (f.getLsbD 2 = true ↔ b < a) ∧ (f.getLsbD 3 = true ↔ a = 0 ∧ b = 0) ∧
      f.extractLsb' 4 12 = (u.cell 0).extractLsb' 4 12

/-- 43_compare_jump.md R261: TEST sets E and Z from the mask, clears L and G, keeps bits 15:4, and writes nothing else. -/
def Obligations.TestSetsFlags : Prop :=
  ∀ (dA dB : Operand) (s t u : State) (a b : Int), ReadsValue dA s a t → ReadsValue dB t b u →
    ∃ f : Word, exec (.test dA dB) s = .next ((u.setCell 0 f).executed .test (some a)) ∧
      (f.getLsbD 0 = true ↔ (u16 a &&& u16 b).toInt = b) ∧ f.getLsbD 1 = false ∧ f.getLsbD 2 = false ∧
      (f.getLsbD 3 = true ↔ u16 a &&& u16 b = 0) ∧ f.extractLsb' 4 12 = (u.cell 0).extractLsb' 4 12

/-- 43_compare_jump.md R262, R263, R266 to R273: the eight conditional jumps. Untaken, nothing is looked up; taken, `ip` is
the label's record index, or the fault is 2 (numeric table) or 9 (symbolic table) and `ip` stays. -/
def Obligations.ConditionalJumps : Prop :=
  ∀ (j : Operand → Instr) (o : Opcode) (cond : Word → Prop),
    ((j, o, cond) = (.jls, .jls, fun f => f.getLsbD 1 = true) ∨
     (j, o, cond) = (.jgr, .jgr, fun f => f.getLsbD 2 = true) ∨
     (j, o, cond) = (.jne, .jne, fun f => f.getLsbD 0 = false) ∨
     (j, o, cond) = (.jeq, .jeq, fun f => f.getLsbD 0 = true) ∨
     (j, o, cond) = (.jz, .jz, fun f => f.getLsbD 3 = true) ∨
     (j, o, cond) = (.jnz, .jnz, fun f => f.getLsbD 3 = false) ∨
     (j, o, cond) = (.jae, .jae, fun f => f.getLsbD 0 = true ∨ f.getLsbD 2 = true) ∨
     (j, o, cond) = (.jbe, .jbe, fun f => f.getLsbD 0 = true ∨ f.getLsbD 1 = true)) →
    ∀ (dA : Operand) (s t : State) (n : Int), ReadsLabel dA s n t →
      (¬ cond (s.cell 0) → exec (j dA) s = .next (t.executed o (some n))) ∧
      (cond (s.cell 0) → dA.jumpKind ≠ .symbolic →
        (∀ k, lookupLabel s.numTable n = some k → exec (j dA) s = .next ((t.setIp k).executed o (some n))) ∧
        (lookupLabel s.numTable n = none → exec (j dA) s = .next (t.runtimeError (some o) (some n) ⟨2, some n⟩))) ∧
      (cond (s.cell 0) → dA.jumpKind = .symbolic →
        (∀ k, lookupLabel s.alnumTable n = some k → exec (j dA) s = .next ((t.setIp k).executed o (some n))) ∧
        (lookupLabel s.alnumTable n = none → exec (j dA) s = .next (t.runtimeError (some o) (some n) ⟨9, some n⟩)))

/-- 43_compare_jump.md R264, R265: JMP through the tables, JTL to a record index; a jump-flagged JTL goes where the JMP
goes, whatever the size of the index. -/
def Obligations.JmpJtlResults : Prop :=
  (∀ (dA : Operand) (s t : State) (n : Int), ReadsLabel dA s n t →
    (dA.jumpKind ≠ .symbolic →
      (∀ k, lookupLabel s.numTable n = some k → exec (.jmp dA) s = .next ((t.setIp k).executed .jmp (some n))) ∧
      (lookupLabel s.numTable n = none → exec (.jmp dA) s = .next (t.runtimeError (some .jmp) (some n) ⟨2, some n⟩))) ∧
    (dA.jumpKind = .symbolic →
      (∀ k, lookupLabel s.alnumTable n = some k → exec (.jmp dA) s = .next ((t.setIp k).executed .jmp (some n))) ∧
      (lookupLabel s.alnumTable n = none →
        exec (.jmp dA) s = .next (t.runtimeError (some .jmp) (some n) ⟨9, some n⟩)))) ∧
  (∀ (dA : Operand) (s t : State) (a : Int), ReadsValue dA s a t →
    (0 ≤ a → a < s.prog.length → exec (.jtl dA) s = .next ((t.setIp a.toNat).executed .jtl (some a))) ∧
    (a < 0 ∨ (s.prog.length : Int) ≤ a →
      exec (.jtl dA) s = .next (t.runtimeError (some .jtl) (some a) ⟨2, some a⟩))) ∧
  (∀ (dA : Operand) (s t : State) (n : Int) (k : Nat), ReadsLabel dA s n t → k < s.prog.length →
    (dA.jumpKind = .numeric ∧ lookupLabel s.numTable n = some k) ∨
      (dA.jumpKind = .symbolic ∧ lookupLabel s.alnumTable n = some k) →
    exec (.jtl dA) s = .next ((t.setIp k).executed .jtl (some (k : Int))) ∧
    exec (.jmp dA) s = .next ((t.setIp k).executed .jmp (some n)))

/-- 44_subroutine_loop_stack.md R300, 40_execution_cycle.md R168, R169: CALL looks its target up before the stack check,
pushes its link at SP, and jumps; a failed CALL pushes nothing. The link is its own index, under `NextIndex` the
fall-through index. Of an index or SP above 32767 the slot's or SP's new word is left open (notes/assumptions/10.md). -/
def Obligations.CallResult : Prop :=
  ∀ (dA : Operand) (s t : State) (n : Int) (table : List (Option Nat)) (code : Int), ReadsLabel dA s n t →
    (dA.jumpKind ≠ .symbolic ∧ table = s.numTable ∧ code = 2 ∨
      dA.jumpKind = .symbolic ∧ table = s.alnumTable ∧ code = 9) →
    (lookupLabel table n = none → exec (.call dA) s = .next (t.runtimeError (some .call) (some n) ⟨code, some n⟩)) ∧
    (∀ k, lookupLabel table n = some k →
      ((s.cell 7).toInt < 0 ∨ (s.params.stackSize : Int) ≤ (s.cell 7).toInt →
        exec (.call dA) s = .next (t.runtimeError (some .call) (some n) ⟨1, some (s.cell 7).toInt⟩)) ∧
      (0 ≤ (s.cell 7).toInt → (s.cell 7).toInt < s.params.stackSize →
        ∃ (link : Nat) (w sp : Word),
          (s.params.retLink = .selfIndex → link = s.prevIp) ∧ (s.params.retLink = .nextIndex → link = s.ip) ∧
          Holds w link ∧ Holds sp ((s.cell 7).toInt + 1) ∧
          exec (.call dA) s = .next
            ((({ t with stack := t.stack.set (s.cell 7).toNat w }.setCell 7 sp).setIp k).executed .call (some n))))

/-- 44_subroutine_loop_stack.md R300, R301: RET pops its link and resumes after it, under `NextIndex` at it; code 5 with
nothing written where SP is out of range, code 7 with SP decremented where the link is no record index. That `NextIndex`
keeps both checks is the model's reading (notes/assumptions/21.md). -/
def Obligations.RetResult : Prop :=
  ∀ s : State,
    ((s.cell 7).toInt ≤ 0 ∨ (s.params.stackSize : Int) < (s.cell 7).toInt →
      exec .ret s = .next (s.runtimeError (some .ret) none ⟨5, some (s.cell 7).toInt⟩)) ∧
    (0 < (s.cell 7).toInt → (s.cell 7).toInt ≤ s.params.stackSize →
      ∃ r : Word, r = s.stack.get ((s.cell 7).toNat - 1) ∧
        (r.toInt < 0 ∨ (s.prog.length : Int) ≤ r.toInt →
          exec .ret s = .next ((s.setCell 7 (s.cell 7 - 1)).runtimeError (some .ret) none ⟨7, some r.toInt⟩)) ∧
        (0 ≤ r.toInt → r.toInt < s.prog.length → s.params.retLink = .selfIndex →
          exec .ret s = .next (((s.setCell 7 (s.cell 7 - 1)).setIp ((r.toNat + 1) % s.prog.length)).executed .ret none)) ∧
        (0 ≤ r.toInt → r.toInt < s.prog.length → s.params.retLink = .nextIndex →
          exec .ret s = .next (((s.setCell 7 (s.cell 7 - 1)).setIp r.toNat).executed .ret none)))

/-- 44_subroutine_loop_stack.md R302, R303: PUSH stores at SP and increments it, POP decrements it and stores the slot;
out of range they fault with 1 and 5 and write nothing. Of a value or SP above 32767 the slot's or SP's new word is left
open (notes/assumptions/10.md). -/
def Obligations.PushPopResults : Prop :=
  (∀ (dA : Operand) (s t : State) (a : Int), ReadsValue dA s a t →
    ((s.cell 7).toInt < 0 ∨ (s.params.stackSize : Int) ≤ (s.cell 7).toInt →
      exec (.push dA) s = .next (t.runtimeError (some .push) (some a) ⟨1, some (s.cell 7).toInt⟩)) ∧
    (0 ≤ (s.cell 7).toInt → (s.cell 7).toInt < s.params.stackSize →
      ∃ w sp : Word, Holds w a ∧ Holds sp ((s.cell 7).toInt + 1) ∧
        exec (.push dA) s = .next
          (({ t with stack := t.stack.set (s.cell 7).toNat w }.setCell 7 sp).executed .push (some a)))) ∧
  (∀ (dA : Operand) (s t : State) (addr : Int), IsDestination dA s addr t →
    ((s.cell 7).toInt ≤ 0 ∨ (s.params.stackSize : Int) < (s.cell 7).toInt →
      exec (.pop dA) s = .next (t.runtimeError (some .pop) none ⟨5, some (s.cell 7).toInt⟩)) ∧
    (0 < (s.cell 7).toInt → (s.cell 7).toInt ≤ s.params.stackSize →
      exec (.pop dA) s = .next
        (((t.setCell 7 (s.cell 7 - 1)).setCell addr.toNat (s.stack.get ((s.cell 7).toNat - 1))).executed .pop none)))

/-- 44_subroutine_loop_stack.md R300, R301: RET after a CALL that executed resumes at the record after the CALL, with SP
restored, under both links, where the indices fit in a cell. -/
def Obligations.RetReturnsAfterCall : Prop :=
  ∀ (dA : Operand) (s t : State), exec (.call dA) s = .next t → t.outcome = some (.executed s.prevIp .call) →
    s.prevIp < s.prog.length → s.ip = (s.prevIp + 1) % s.prog.length → s.prog.length ≤ 32768 →
    (s.cell 7).toInt < 32767 →
    ∃ u, exec .ret t = .next u ∧ u.outcome = some (.executed s.prevIp .ret) ∧ u.ip = s.ip ∧ u.cell 7 = s.cell 7

/-- 44_subroutine_loop_stack.md R304, R305: DO sets CX; LOOP always writes CX and jumps while it is positive, its target
looked up only then. -/
def Obligations.DoLoopResults : Prop :=
  (∀ (dA : Operand) (s t : State) (a : Int), ReadsValue dA s a t →
    ∃ w : Word, Holds w a ∧ exec (.doCx dA) s = .next ((t.setCell 3 w).executed .doCx (some a))) ∧
  (∀ (dA : Operand) (s t : State) (n : Int) (c : Word) (table : List (Option Nat)) (code : Int), ReadsLabel dA s n t →
    c = wrap16 ((s.cell 3).toInt - 1) →
    (dA.jumpKind ≠ .symbolic ∧ table = s.numTable ∧ code = 2 ∨
      dA.jumpKind = .symbolic ∧ table = s.alnumTable ∧ code = 9) →
    (c.toInt ≤ 0 → exec (.loop dA) s = .next ((t.setCell 3 c).executed .loop (some n))) ∧
    (0 < c.toInt →
      (∀ k, lookupLabel table n = some k →
        exec (.loop dA) s = .next (((t.setCell 3 c).setIp k).executed .loop (some n))) ∧
      (lookupLabel table n = none →
        exec (.loop dA) s = .next ((t.setCell 3 c).runtimeError (some .loop) (some n) ⟨code, some n⟩))))

/-- 45_move.md R330, R331, R332: MOV copies, XCHG writes A then B with the values read before, LOC stores the effective
address. Of a record index above 32767 the cell's new word is left open (notes/assumptions/10.md). -/
def Obligations.MovXchgLocResults : Prop :=
  (∀ (dA dB : Operand) (s t u : State) (addr b : Int), IsDestination dA s addr t → ReadsValue dB t b u →
    ∃ w : Word, Holds w b ∧ exec (.mov dA dB) s = .next ((u.setCell addr.toNat w).executed .mov none)) ∧
  (∀ (dA dB : Operand) (s t u : State) (addrA addrB a b : Int),
    IsReadDestination dA s addrA a t → IsReadDestination dB t addrB b u →
    ∃ wa wb : Word, wa.toInt = a ∧ wb.toInt = b ∧
      exec (.xchg dA dB) s = .next (((u.setCell addrA.toNat wb).setCell addrB.toNat wa).executed .xchg (some a))) ∧
  (∀ (dA dB : Operand) (s t u : State) (addr b : Int), IsDestination dA s addr t → HasEffectiveAddress dB t b u →
    ∃ w : Word, Holds w b ∧ exec (.loc dA dB) s = .next ((u.setCell addr.toNat w).executed .loc none))

/-- 45_move.md R333, R334: GET reads at the address B holds and PUT writes there, with their faults. Of a record index above
32767 the cell's new word is left open (notes/assumptions/10.md). -/
def Obligations.GetPutResults : Prop :=
  (∀ (dA dB : Operand) (s t u : State) (addr b : Int), IsDestination dA s addr t → ReadsValue dB t b u →
    (∀ v x, memRead b u = .ok v x → exec (.get dA dB) s = .next ((x.setCell addr.toNat v).executed .get none)) ∧
    (∀ e x, memRead b u = .raise e x → exec (.get dA dB) s = .next (x.runtimeError (some .get) none e))) ∧
  (∀ (dA dB : Operand) (s t u : State) (a b : Int), ReadsValue dA s a t → ReadsValue dB t b u →
    (0 ≤ b → b < 1024 →
      ∃ w : Word, Holds w a ∧ exec (.put dA dB) s = .next ((u.setCell b.toNat w).executed .put (some a))) ∧
    (1024 ≤ b → b < 1024 + 4 * (s.prog.length : Int) →
      exec (.put dA dB) s = .next (u.runtimeError (some .put) (some a) ⟨3, some b⟩)) ∧
    (b < 0 ∨ 1024 + 4 * (s.prog.length : Int) ≤ b →
      exec (.put dA dB) s = .next (u.runtimeError (some .put) (some a) ⟨4, some b⟩)))

/-- 46_system_io.md R360 to R363, 40_execution_cycle.md R174: NOP does nothing; DELAY does nothing but commit its cost, which
is `max(1, a)` where `PENALTY` gives DELAY no other; ERR raises the code its operand holds. -/
def Obligations.NopDelayErrResults : Prop :=
  (∀ s : State, exec .nop s = .next (s.executed .nop none)) ∧
  (∀ (dA : Operand) (s t : State) (a : Int), ReadsValue dA s a t →
    exec (.delay dA) s = .next (t.executed .delay (some a)) ∧
    ((∀ c, ((Opcode.delay, a), c) ∉ s.params.argCost) → (∀ c, (Opcode.delay, c) ∉ s.params.opcodeCost) →
      ∃ c : Nat, (c : Int) = max 1 a ∧
        exec (.delay dA) s = .next { t with penalty := c, micro := 0, outcome := some (.executed s.prevIp .delay) })) ∧
  (∀ (dA : Operand) (s t : State) (a : Int), ReadsValue dA s a t →
    exec (.err dA) s = .next (t.runtimeError (some .err) (some a) ⟨a, none⟩))

/-- 46_system_io.md R364, 60_exceptions.md R400, R402, R412, R413: INT outside the table, the software reset, the host's
writes in list order, and the host's error with its own code. -/
def Obligations.IntResults : Prop :=
  ∀ (dA : Operand) (s t : State) (a : Int), ReadsValue dA s a t →
    (a ∉ s.params.intTable → exec (.int dA) s = .next (t.runtimeError (some .int) (some a) ⟨10, some a⟩)) ∧
    (a ∈ s.params.intTable → a = s.params.softResetInt →
      exec (.int dA) s = .next ({ t with mem := [], stack := [], ip := 0 }.executed .int (some a))) ∧
    (a ∈ s.params.intTable → a ≠ s.params.softResetInt →
      (∀ ws, s.now.interrupt = .ok ws →
        exec (.int dA) s = .next ((ws.foldl (fun (x : State) (w : Fin 14 × Word) => x.setCell w.1.val w.2)
          { t with calls := t.calls ++ [HostCall.interrupt a ((List.range 8).map s.cell)] }).executed .int (some a))) ∧
      (∀ k, s.now.interrupt = .err k →
        exec (.int dA) s = .next ({ t with calls := t.calls ++ [HostCall.interrupt a ((List.range 8).map s.cell)] }.runtimeError
          (some .int) (some a) ⟨reportedCode k, some a⟩)))

/-- 46_system_io.md R365, R366, R368, 60_exceptions.md R400, R402: IPO's port checks come after its operands resolved and
before the host call; the host's error is raised with its own code. -/
def Obligations.IpoResults : Prop :=
  ∀ (dA dB : Operand) (s t u : State) (a addr : Int), ReadsValue dA s a t → IsDestination dB t addr u →
    (portDir s.params.portTable a = none →
      exec (.ipo dA dB) s = .next (u.runtimeError (some .ipo) (some a) ⟨11, some a⟩)) ∧
    (portDir s.params.portTable a = some .output →
      exec (.ipo dA dB) s = .next (u.runtimeError (some .ipo) (some a) ⟨17, some a⟩)) ∧
    (portDir s.params.portTable a = some .input ∨ portDir s.params.portTable a = some .both →
      (∀ v, s.now.portIn = .ok v →
        exec (.ipo dA dB) s = .next
          (({ u with calls := u.calls ++ [HostCall.portIn a] }.setCell addr.toNat v).executed .ipo (some a))) ∧
      (∀ k, s.now.portIn = .err k →
        exec (.ipo dA dB) s = .next
          ({ u with calls := u.calls ++ [HostCall.portIn a] }.runtimeError (some .ipo) (some a)
            ⟨reportedCode k, some a⟩)))

/-- 46_system_io.md R365, R367, R369, 60_exceptions.md R400, R402: OPO's port checks, and the host call with the port and
the value; no cell is written; the host's error is raised with its own code. -/
def Obligations.OpoResults : Prop :=
  ∀ (dA dB : Operand) (s t u : State) (a b : Int), ReadsValue dA s a t → ReadsValue dB t b u →
    (portDir s.params.portTable a = none →
      exec (.opo dA dB) s = .next (u.runtimeError (some .opo) (some a) ⟨11, some a⟩)) ∧
    (portDir s.params.portTable a = some .input →
      exec (.opo dA dB) s = .next (u.runtimeError (some .opo) (some a) ⟨16, some a⟩)) ∧
    (portDir s.params.portTable a = some .output ∨ portDir s.params.portTable a = some .both →
      (s.now.portOut = .ok () →
        exec (.opo dA dB) s = .next ({ u with calls := u.calls ++ [HostCall.portOut a b] }.executed .opo (some a))) ∧
      (∀ k, s.now.portOut = .err k →
        exec (.opo dA dB) s = .next
          ({ u with calls := u.calls ++ [HostCall.portOut a b] }.runtimeError (some .opo) (some a)
            ⟨reportedCode k, some a⟩)))

/-- 40_execution_cycle.md R155: a label marker changes nothing but the outcome, whatever its index and its `x` bit. -/
def Obligations.LabelMarkersSkip : Prop :=
  ∀ (index : Word) (x : Bool) (s : State),
    exec (.numericLabel index x) s = .next { s with outcome := some (.skipped s.prevIp) } ∧
    exec (.symbolicLabel index x) s = .next { s with outcome := some (.skipped s.prevIp) }

/-! ### Frames -/

/-- 30_encoding.md R120, 40_execution_cycle.md R172: ADD SUB OR AND XOR NOT MPY DIV MOD INC DEC NEG SHL SHR ROL ROR SAL SAR
MOV LOC GET store to operand A's cell alone (to none where it has no address); no flag, stack slot or jump. -/
def Obligations.FrameOfStoresToA : Prop :=
  ∀ (i : Instr) (d : Operand) (s t : State), storesOnlyA i = some d → exec i s = .next t →
    (∀ c, destinationCell d s = some c → SameCellsBut (fun x => x = c) s t) ∧
    (destinationCell d s = none → SameCellsBut (fun _ => False) s t) ∧
    t.stack = s.stack ∧ t.ip = s.ip ∧ SameFixtures s t

/-- 46_system_io.md R360, R361, R367, 43_compare_jump.md R262, 40_execution_cycle.md R155: NOP DELAY ERR OPO, the jumps and
the label markers store to no cell and no stack slot. -/
def Obligations.FrameOfStoringNothing : Prop :=
  ∀ (i : Instr) (s t : State), storesNothing i = true → exec i s = .next t →
    t.mem = s.mem ∧ t.stack = s.stack ∧ SameFixtures s t

/-- 43_compare_jump.md R260, R261, 44_subroutine_loop_stack.md R304, R305: CMP and TEST store to FLAGS alone and there to
bits 3:0 alone, DO and LOOP to CX alone. -/
def Obligations.FrameOfCompareAndLoop : Prop :=
  ∀ (i : Instr) (dA dB : Operand) (s t : State), exec i s = .next t →
    (i = .cmp dA dB ∨ i = .test dA dB →
      SameCellsBut (fun c => c = 0) s t ∧ (t.cell 0).extractLsb' 4 12 = (s.cell 0).extractLsb' 4 12 ∧
      t.stack = s.stack ∧ t.ip = s.ip ∧ SameFixtures s t) ∧
    (i = .doCx dA ∨ i = .loop dA →
      SameCellsBut (fun c => c = 3) s t ∧ t.stack = s.stack ∧ SameFixtures s t)

/-- 44_subroutine_loop_stack.md R300 to R303: CALL and PUSH store to SP and the slot SP named; RET to SP; POP to SP and
operand A's cell. -/
def Obligations.FrameOfStackInstructions : Prop :=
  ∀ (i : Instr) (dA : Operand) (s t : State), exec i s = .next t →
    (i = .call dA ∨ i = .push dA →
      SameCellsBut (fun c => c = 7) s t ∧ SameSlotsBut (fun k => k = (s.cell 7).toNat) s t ∧ SameFixtures s t) ∧
    (i = .ret → SameCellsBut (fun c => c = 7) s t ∧ t.stack = s.stack ∧ SameFixtures s t) ∧
    (i = .pop dA →
      (∀ c, destinationCell dA s = some c → SameCellsBut (fun x => x = 7 ∨ x = c) s t) ∧
      (destinationCell dA s = none → SameCellsBut (fun _ => False) s t) ∧
      t.stack = s.stack ∧ t.ip = s.ip ∧ SameFixtures s t)

/-- 45_move.md R331, R334, 46_system_io.md R366: XCHG stores to the cells of both operands, IPO to operand B's, PUT to the
cell B's value names; B is resolved after A. -/
def Obligations.FrameOfXchgIpoPut : Prop :=
  ∀ (dA dB : Operand) (s t : State),
    (exec (.xchg dA dB) s = .next t →
      SameCellsBut (fun x => destinationCell dA s = some x ∨ destinationCell dB (stateAfter dA .rw s) = some x) s t ∧
      t.stack = s.stack ∧ t.ip = s.ip ∧ SameFixtures s t) ∧
    (exec (.ipo dA dB) s = .next t →
      SameCellsBut (fun x => destinationCell dB (stateAfter dA .r s) = some x) s t ∧
      t.stack = s.stack ∧ t.ip = s.ip ∧ SameFixtures s t) ∧
    (exec (.put dA dB) s = .next t →
      SameCellsBut (fun x => putCell dA dB s = some x) s t ∧ t.stack = s.stack ∧ t.ip = s.ip ∧ SameFixtures s t)

/-- 60_exceptions.md R412, R413: INT stores to cells 0 to 13 alone, and to no stack slot, but for the software reset. -/
def Obligations.FrameOfInt : Prop :=
  ∀ (dA : Operand) (s t : State), exec (.int dA) s = .next t →
    SameFixtures s t ∧
    ((¬ ∃ u, ReadsValue dA s s.params.softResetInt u) →
      SameCellsBut (fun c => c < 14) s t ∧ t.stack = s.stack ∧ t.ip = s.ip)

/-! ### Whole-machine rules -/

/-- 60_exceptions.md R403, R404, R407: of every instruction that faults, the fault names the instruction's own index, `ip`
stays at the fall-through, no stack slot changes, and no cell but LOOP's CX and RET's SP. -/
def Obligations.FaultKeepsState : Prop :=
  ∀ (i : Instr) (s t : State) (cur : Nat) (e : RuntimeError), exec i s = .next t →
    t.outcome = some (.faulted cur e) →
    cur = s.prevIp ∧ t.ip = s.ip ∧ t.stack = s.stack ∧ SameFixtures s t ∧
    SameCellsBut (fun c => (c = 3 ∧ ∃ d, i = .loop d) ∨ (c = 7 ∧ i = .ret)) s t

/-- 40_execution_cycle.md R160: where the consistency cache holds, no record's structural check fails. -/
def Obligations.ConsistencyCacheAgrees : Prop :=
  ∀ (prog : List Record) (n : Nat) (r : Record), allConsistent prog = true → prog[n]? = some r →
    ∀ o : Opcode, r.w0.toInt = o.number →
      decode r = .instr (o.instr r.opA r.opB) ∧ structuralCheck o r.opA r.opB = none

/-- 40_execution_cycle.md R179: the host interactions of every step, in this order and no other. -/
def Obligations.HostCallOrder : Prop := ∀ s t : State, step s = .next t → CallOrder t.calls
end

