-- ==== Sys2Proof/Laws/Cells.lean ====
section
/-! SUPPORT. The laws of cells: a read after a write, for every list of cells, and that every operation keeps the canonical
form. -/

namespace Sys2Proof.Machine

/-! ### Reads and writes -/

@[simp] theorem Cells.get_nil (a : Nat) : Cells.get [] a = 0 := rfl

theorem Cells.get_erase (m : Cells) (a b : Nat) : (m.erase a).get b = if b = a then 0 else m.get b := by
  induction m with
  | nil => simp [Cells.erase, Cells.get]
  | cons e m ih =>
    obtain ⟨k, v⟩ := e
    by_cases hk : k = a <;> by_cases hb : k = b <;> simp_all [Cells.erase, Cells.get]

theorem Cells.get_insert (m : Cells) (a b : Nat) (v : Word) (h : m.get a = 0 ∧ ∀ w, (a, w) ∉ m) :
    (m.insert a v).get b = if b = a then v else m.get b := by
  obtain ⟨-, h⟩ := h
  induction m with
  | nil => simp [Cells.insert, Cells.get, eq_comm]
  | cons e m ih =>
    obtain ⟨k, w⟩ := e
    have hk : k ≠ a := fun hk => h w (by simp [hk])
    have := ih fun w hw => h w (by simp [hw])
    simp only [Cells.insert]
    split
    · simp [Cells.get, eq_comm]
    · simp only [Cells.get, this]; grind

theorem Cells.not_mem_erase (m : Cells) (a : Nat) (w : Word) : (a, w) ∉ m.erase a := by
  induction m with
  | nil => simp [Cells.erase]
  | cons e m ih =>
    obtain ⟨k, v⟩ := e
    simp only [Cells.erase]
    split
    · exact ih
    · simp_all [eq_comm]

/-- A read after a write (20_memory.md R92), for every list of cells. -/
@[simp] theorem Cells.get_set (m : Cells) (a b : Nat) (v : Word) :
    (m.set a v).get b = if b = a then v else m.get b := by
  unfold Cells.set
  split
  · next h => rw [Cells.get_erase]; simp [h]
  · rw [Cells.get_insert _ _ _ _ ⟨by simp [Cells.get_erase], Cells.not_mem_erase m a⟩, Cells.get_erase]
    split <;> rfl

/-! ### The canonical form -/

theorem Cells.wfFrom_mono {bound lo lo' : Nat} {m : Cells} (h : Cells.wfFrom bound lo m = true) (hlo : lo' ≤ lo) :
    Cells.wfFrom bound lo' m = true := by
  cases m with
  | nil => rfl
  | cons e m => obtain ⟨k, v⟩ := e; simp_all [Cells.wfFrom]; omega

theorem Cells.wfFrom_erase {bound lo : Nat} {m : Cells} (h : Cells.wfFrom bound lo m = true) (a : Nat) :
    Cells.wfFrom bound lo (m.erase a) = true := by
  induction m generalizing lo with
  | nil => rfl
  | cons e m ih =>
    obtain ⟨k, v⟩ := e
    simp only [Cells.wfFrom, Bool.and_eq_true, decide_eq_true_eq] at h
    simp only [Cells.erase]
    split
    · exact Cells.wfFrom_mono (ih h.2) (by omega)
    · simp only [Cells.wfFrom, Bool.and_eq_true, decide_eq_true_eq]; exact ⟨h.1, ih h.2⟩

theorem Cells.wfFrom_insert {bound lo : Nat} {m : Cells} (h : Cells.wfFrom bound lo m = true) {a : Nat} {v : Word}
    (hlo : lo ≤ a) (ha : a < bound) (hv : v ≠ 0) (hm : ∀ w, (a, w) ∉ m) :
    Cells.wfFrom bound lo (m.insert a v) = true := by
  induction m generalizing lo with
  | nil => simp_all [Cells.insert, Cells.wfFrom]
  | cons e m ih =>
    obtain ⟨k, w⟩ := e
    have hk : k ≠ a := fun hk => hm w (by simp [hk])
    simp only [Cells.wfFrom, Bool.and_eq_true, decide_eq_true_eq] at h
    simp only [Cells.insert]
    split
    · simp only [Cells.wfFrom, Bool.and_eq_true, decide_eq_true_eq]
      exact ⟨⟨⟨hlo, ha⟩, by simpa using hv⟩, ⟨⟨by omega, h.1.1.2⟩, h.1.2⟩, h.2⟩
    · simp only [Cells.wfFrom, Bool.and_eq_true, decide_eq_true_eq]
      exact ⟨h.1, ih h.2 (by omega) fun w hw => hm w (by simp [hw])⟩

/-- A write below the bound keeps the canonical form. -/
theorem Cells.wf_set {bound : Nat} {m : Cells} (h : Cells.wf bound m = true) {a : Nat} (ha : a < bound) (v : Word) :
    Cells.wf bound (m.set a v) = true := by
  unfold Cells.set
  split
  · exact Cells.wfFrom_erase h a
  · next hv => exact Cells.wfFrom_insert (Cells.wfFrom_erase h a) (Nat.zero_le a) ha hv (Cells.not_mem_erase m a)

@[simp] theorem Cells.wf_nil (bound : Nat) : Cells.wf bound [] = true := rfl

/-- A write of the data memory keeps its canonical form. -/
theorem Memory.wf_set {m : Cells} (h : Memory.wf m = true) {a : Nat} (ha : a < 1024) (v : Word) :
    Memory.wf (m.set a v) = true :=
  Cells.wf_set h ha v

@[simp] theorem Memory.wf_nil : Memory.wf [] = true := rfl

theorem Cells.get_eq_zero_of_lt {bound lo : Nat} {m : Cells} (h : Cells.wfFrom bound lo m = true) {a : Nat}
    (ha : a < lo) : m.get a = 0 := by
  induction m generalizing lo with
  | nil => rfl
  | cons e m ih =>
    obtain ⟨k, v⟩ := e
    simp only [Cells.wfFrom, Bool.and_eq_true, decide_eq_true_eq] at h
    rw [Cells.get, if_neg (by omega)]
    exact ih h.2 (by omega)

/-- Canonical cells that read alike are the same list. -/
theorem Cells.ext_of_wf {bound lo : Nat} {m m' : Cells} (h : Cells.wfFrom bound lo m = true)
    (h' : Cells.wfFrom bound lo m' = true) (hget : ∀ a, m.get a = m'.get a) : m = m' := by
  induction m generalizing lo m' with
  | nil =>
    cases m' with
    | nil => rfl
    | cons e m' =>
      obtain ⟨k, v⟩ := e
      simp only [Cells.wfFrom, Bool.and_eq_true, decide_eq_true_eq, bne_iff_ne, ne_eq] at h'
      have := hget k
      simp [Cells.get] at this
      exact absurd this.symm h'.1.2
  | cons e m ih =>
    obtain ⟨k, v⟩ := e
    simp only [Cells.wfFrom, Bool.and_eq_true, decide_eq_true_eq, bne_iff_ne, ne_eq] at h
    cases m' with
    | nil =>
      have := hget k
      simp [Cells.get] at this
      exact absurd this h.1.2
    | cons e' m' =>
      obtain ⟨k', v'⟩ := e'
      simp only [Cells.wfFrom, Bool.and_eq_true, decide_eq_true_eq, bne_iff_ne, ne_eq] at h'
      have hz : ∀ {a : Nat}, a < k + 1 → Cells.get m a = 0 := fun ha => Cells.get_eq_zero_of_lt h.2 ha
      have hz' : ∀ {a : Nat}, a < k' + 1 → Cells.get m' a = 0 := fun ha => Cells.get_eq_zero_of_lt h'.2 ha
      have hk : k = k' := by
        by_contra hne
        rcases Nat.lt_or_gt_of_ne hne with hlt | hlt
        · have := hget k
          rw [Cells.get, if_pos rfl, Cells.get, if_neg (by omega), hz' (a := k) (by omega)] at this
          exact h.1.2 this
        · have := hget k'
          rw [Cells.get, if_neg (by omega), hz (a := k') (by omega), Cells.get, if_pos rfl] at this
          exact h'.1.2 this.symm
      subst hk
      have hv : v = v' := by simpa [Cells.get] using hget k
      subst hv
      have : m = m' := ih h.2 h'.2 fun a => by
        by_cases ha : a < k + 1
        · rw [hz ha, hz' ha]
        · have := hget a
          rwa [Cells.get, if_neg (by omega), Cells.get, if_neg (by omega)] at this
      rw [this]

/-! ### Cells of the state -/

@[simp] theorem cell_setCell (s : State) (a b : Nat) (v : Word) :
    (s.setCell a v).cell b = if b = a then v else s.cell b := Cells.get_set s.mem a b v

@[simp] theorem cell_setReg (s : State) (r : Reg) (b : Nat) (v : Word) :
    (s.setReg r v).cell b = if b = r.addr then v else s.cell b := Cells.get_set s.mem r.addr b v

theorem cell_eq_of_mem_eq {s t : State} (h : t.mem = s.mem) (c : Nat) : t.cell c = s.cell c := by
  rw [State.cell, State.cell, h]

end Sys2Proof.Machine
end

