-- ==== Sys2Proof/Laws/Penalty.lean ====
section
/-! SUPPORT. The cost tables of `Params` give every cost function: what `PENALTY` is (00_scope.md R6, 40_execution_cycle.md
R174, R175). -/

namespace Sys2Proof.Machine

theorem lookupCost_map {α : Type} [DecidableEq α] (f : α → Nat) (l : List α) (k : α) (d : Nat) :
    lookupCost (l.map fun x => (x, f x)) k d = if k ∈ l then f k else d := by
  induction l with
  | nil => rfl
  | cons x l ih =>
    simp only [List.map_cons, lookupCost, ih, List.mem_cons]
    by_cases h : x = k
    · simp [h]
    · simp [h, Ne.symm h]

/-- The cost of a resolved argument with an entry of its own is that entry, of an opcode with an entry that one, else the
document's default. -/
theorem penaltyOf_some (p : Params) (o : Opcode) (a : Int) :
    penaltyOf p o (some a) = lookupCost p.argCost (o, a) (lookupCost p.opcodeCost o (documentCost o a)) := rfl

theorem mem_opcode_table (o : Opcode) : o ∈ Opcode.table := by cases o <;> decide

/-- Every cost function, on the finitely many arguments an instruction can meet, and every cost of an opcode without a
resolved argument that 40_execution_cycle.md R175 leaves open, is that of some cost tables, whatever the other parameters. -/
theorem exists_params_of_cost (p : Params) (f : Opcode → Int → Nat) (g : Opcode → Nat) (args : List Int) :
    ∃ q : Params, (∀ o, ∀ a ∈ args, penaltyOf q o (some a) = f o a) ∧
      (∀ o, isArgumentCosted o = false → penaltyOf q o none = g o) := by
  refine ⟨{ p with
    argCost := (Opcode.table ×ˢ args).map fun x => (x, f x.1 x.2)
    opcodeCost := Opcode.table.map fun o => (o, g o) }, fun o a ha => ?_, fun o ho => ?_⟩
  · rw [penaltyOf_some, lookupCost_map (fun x : Opcode × Int => f x.1 x.2), if_pos]
    exact List.mem_product.mpr ⟨mem_opcode_table o, ha⟩
  · simp only [penaltyOf, ho, Bool.false_eq_true, if_false]
    rw [lookupCost_map, if_pos (mem_opcode_table o)]

end Sys2Proof.Machine
end

