-- ==== Sys2Proof/Laws/PerInstr.lean ====
section
/-! SUPPORT. The per-instruction family: what the encoder makes of every instruction, one lemma per constructor. -/

namespace Sys2Proof.Laws

/-- The encoded record is made of three descriptors, and its opcode field is not reserved (30_encoding.md R110, R111, R124):
the decoder never rejects it for its opcode nibble. -/
def EncodedOpcode.Statement (i : Instr) : Prop :=
  ∃ d0 dA dB : Operand, encode i = Record.ofDescriptors d0 dA dB ∧ d0.isReserved = false

theorem EncodedOpcode.nop : EncodedOpcode.Statement (.nop) := ⟨_, _, _, rfl, rfl⟩
theorem EncodedOpcode.add (dA dB : Operand) : EncodedOpcode.Statement (.add dA dB) := ⟨_, _, _, rfl, rfl⟩
theorem EncodedOpcode.sub (dA dB : Operand) : EncodedOpcode.Statement (.sub dA dB) := ⟨_, _, _, rfl, rfl⟩
theorem EncodedOpcode.or (dA dB : Operand) : EncodedOpcode.Statement (.or dA dB) := ⟨_, _, _, rfl, rfl⟩
theorem EncodedOpcode.and (dA dB : Operand) : EncodedOpcode.Statement (.and dA dB) := ⟨_, _, _, rfl, rfl⟩
theorem EncodedOpcode.xor (dA dB : Operand) : EncodedOpcode.Statement (.xor dA dB) := ⟨_, _, _, rfl, rfl⟩
theorem EncodedOpcode.not (dA : Operand) : EncodedOpcode.Statement (.not dA) := ⟨_, _, _, rfl, rfl⟩
theorem EncodedOpcode.mpy (dA dB : Operand) : EncodedOpcode.Statement (.mpy dA dB) := ⟨_, _, _, rfl, rfl⟩
theorem EncodedOpcode.div (dA dB : Operand) : EncodedOpcode.Statement (.div dA dB) := ⟨_, _, _, rfl, rfl⟩
theorem EncodedOpcode.mod (dA dB : Operand) : EncodedOpcode.Statement (.mod dA dB) := ⟨_, _, _, rfl, rfl⟩
theorem EncodedOpcode.ret : EncodedOpcode.Statement (.ret) := ⟨_, _, _, rfl, rfl⟩
theorem EncodedOpcode.call (dA : Operand) : EncodedOpcode.Statement (.call dA) := ⟨_, _, _, rfl, rfl⟩
theorem EncodedOpcode.jmp (dA : Operand) : EncodedOpcode.Statement (.jmp dA) := ⟨_, _, _, rfl, rfl⟩
theorem EncodedOpcode.jls (dA : Operand) : EncodedOpcode.Statement (.jls dA) := ⟨_, _, _, rfl, rfl⟩
theorem EncodedOpcode.jgr (dA : Operand) : EncodedOpcode.Statement (.jgr dA) := ⟨_, _, _, rfl, rfl⟩
theorem EncodedOpcode.jne (dA : Operand) : EncodedOpcode.Statement (.jne dA) := ⟨_, _, _, rfl, rfl⟩
theorem EncodedOpcode.jeq (dA : Operand) : EncodedOpcode.Statement (.jeq dA) := ⟨_, _, _, rfl, rfl⟩
theorem EncodedOpcode.xchg (dA dB : Operand) : EncodedOpcode.Statement (.xchg dA dB) := ⟨_, _, _, rfl, rfl⟩
theorem EncodedOpcode.doCx (dA : Operand) : EncodedOpcode.Statement (.doCx dA) := ⟨_, _, _, rfl, rfl⟩
theorem EncodedOpcode.loop (dA : Operand) : EncodedOpcode.Statement (.loop dA) := ⟨_, _, _, rfl, rfl⟩
theorem EncodedOpcode.cmp (dA dB : Operand) : EncodedOpcode.Statement (.cmp dA dB) := ⟨_, _, _, rfl, rfl⟩
theorem EncodedOpcode.test (dA dB : Operand) : EncodedOpcode.Statement (.test dA dB) := ⟨_, _, _, rfl, rfl⟩
theorem EncodedOpcode.mov (dA dB : Operand) : EncodedOpcode.Statement (.mov dA dB) := ⟨_, _, _, rfl, rfl⟩
theorem EncodedOpcode.loc (dA dB : Operand) : EncodedOpcode.Statement (.loc dA dB) := ⟨_, _, _, rfl, rfl⟩
theorem EncodedOpcode.get (dA dB : Operand) : EncodedOpcode.Statement (.get dA dB) := ⟨_, _, _, rfl, rfl⟩
theorem EncodedOpcode.put (dA dB : Operand) : EncodedOpcode.Statement (.put dA dB) := ⟨_, _, _, rfl, rfl⟩
theorem EncodedOpcode.int (dA : Operand) : EncodedOpcode.Statement (.int dA) := ⟨_, _, _, rfl, rfl⟩
theorem EncodedOpcode.ipo (dA dB : Operand) : EncodedOpcode.Statement (.ipo dA dB) := ⟨_, _, _, rfl, rfl⟩
theorem EncodedOpcode.opo (dA dB : Operand) : EncodedOpcode.Statement (.opo dA dB) := ⟨_, _, _, rfl, rfl⟩
theorem EncodedOpcode.delay (dA : Operand) : EncodedOpcode.Statement (.delay dA) := ⟨_, _, _, rfl, rfl⟩
theorem EncodedOpcode.push (dA : Operand) : EncodedOpcode.Statement (.push dA) := ⟨_, _, _, rfl, rfl⟩
theorem EncodedOpcode.pop (dA : Operand) : EncodedOpcode.Statement (.pop dA) := ⟨_, _, _, rfl, rfl⟩
theorem EncodedOpcode.err (dA : Operand) : EncodedOpcode.Statement (.err dA) := ⟨_, _, _, rfl, rfl⟩
theorem EncodedOpcode.inc (dA : Operand) : EncodedOpcode.Statement (.inc dA) := ⟨_, _, _, rfl, rfl⟩
theorem EncodedOpcode.dec (dA : Operand) : EncodedOpcode.Statement (.dec dA) := ⟨_, _, _, rfl, rfl⟩
theorem EncodedOpcode.shl (dA dB : Operand) : EncodedOpcode.Statement (.shl dA dB) := ⟨_, _, _, rfl, rfl⟩
theorem EncodedOpcode.shr (dA dB : Operand) : EncodedOpcode.Statement (.shr dA dB) := ⟨_, _, _, rfl, rfl⟩
theorem EncodedOpcode.rol (dA dB : Operand) : EncodedOpcode.Statement (.rol dA dB) := ⟨_, _, _, rfl, rfl⟩
theorem EncodedOpcode.ror (dA dB : Operand) : EncodedOpcode.Statement (.ror dA dB) := ⟨_, _, _, rfl, rfl⟩
theorem EncodedOpcode.jz (dA : Operand) : EncodedOpcode.Statement (.jz dA) := ⟨_, _, _, rfl, rfl⟩
theorem EncodedOpcode.jnz (dA : Operand) : EncodedOpcode.Statement (.jnz dA) := ⟨_, _, _, rfl, rfl⟩
theorem EncodedOpcode.jae (dA : Operand) : EncodedOpcode.Statement (.jae dA) := ⟨_, _, _, rfl, rfl⟩
theorem EncodedOpcode.jbe (dA : Operand) : EncodedOpcode.Statement (.jbe dA) := ⟨_, _, _, rfl, rfl⟩
theorem EncodedOpcode.sal (dA dB : Operand) : EncodedOpcode.Statement (.sal dA dB) := ⟨_, _, _, rfl, rfl⟩
theorem EncodedOpcode.sar (dA dB : Operand) : EncodedOpcode.Statement (.sar dA dB) := ⟨_, _, _, rfl, rfl⟩
theorem EncodedOpcode.neg (dA : Operand) : EncodedOpcode.Statement (.neg dA) := ⟨_, _, _, rfl, rfl⟩
theorem EncodedOpcode.jtl (dA : Operand) : EncodedOpcode.Statement (.jtl dA) := ⟨_, _, _, rfl, rfl⟩
theorem EncodedOpcode.numericLabel (index : Word) (x : Bool) : EncodedOpcode.Statement (.numericLabel index x) := ⟨_, _, _, rfl, rfl⟩
theorem EncodedOpcode.symbolicLabel (index : Word) (x : Bool) : EncodedOpcode.Statement (.symbolicLabel index x) := ⟨_, _, _, rfl, rfl⟩

end Sys2Proof.Laws
end

