-- ==== Sys2Proof/Laws/Reads.lean ====
section
/-! SUPPORT. Operand resolution only reads: the one thing that memory reads, label lookups, write checks and `resolve` can do
to the state, said once for each. -/

namespace Sys2Proof.Machine

/-- The state where a part ended, whether it went on or raised. -/
def Res.state {α : Type} : Res α → State
  | .ok _ s => s
  | .raise _ s => s

@[simp] theorem Res.state_ok {α : Type} (a : α) (s : State) : (Res.ok a s).state = s := rfl

@[simp] theorem Res.state_raise {α : Type} (e : RuntimeError) (s : State) : (Res.raise e s : Res α).state = s := rfl

@[simp] theorem Res.bind_ok {α β : Type} (a : α) (s : State) (f : α → State → Res β) : (Res.ok a s).bind f = f a s := rfl

@[simp] theorem Res.bind_raise {α β : Type} (e : RuntimeError) (s : State) (f : α → State → Res β) :
    (Res.raise e s : Res α).bind f = .raise e s := rfl

theorem Res.bind_eq_ok {α β : Type} {r : Res α} {f : α → State → Res β} {b : β} {t : State} :
    r.bind f = .ok b t ↔ ∃ a u, r = .ok a u ∧ f a u = .ok b t := by
  cases r <;> simp

theorem Res.bind_eq_raise {α β : Type} {r : Res α} {f : α → State → Res β} {e : RuntimeError} {t : State} :
    r.bind f = .raise e t ↔ r = .raise e t ∨ ∃ a u, r = .ok a u ∧ f a u = .raise e t := by
  cases r <;> simp

/-- `t` is `s` after shunt reads at the addresses `as`, and nothing else. -/
def ReadsOnly (s t : State) : Prop :=
  ∃ as : List Int,
    t = { s with now := { s.now with shunt := s.now.shunt.drop as.length }, calls := s.calls ++ as.map .shuntRead }

theorem ReadsOnly.refl (s : State) : ReadsOnly s s := ⟨[], by simp⟩

theorem ReadsOnly.trans {s t u : State} (h : ReadsOnly s t) (h' : ReadsOnly t u) : ReadsOnly s u := by
  obtain ⟨as, rfl⟩ := h
  obtain ⟨bs, rfl⟩ := h'
  exact ⟨as ++ bs, by simp [List.drop_drop]⟩

/-- Reads change only the unread shunt answers and the calls made. -/
theorem ReadsOnly.eq {s t : State} (h : ReadsOnly s t) :
    t.mem = s.mem ∧ t.stack = s.stack ∧ t.ip = s.ip ∧ t.prevIp = s.prevIp ∧ t.penalty = s.penalty ∧ t.micro = s.micro ∧
    t.prog = s.prog ∧ t.numTable = s.numTable ∧ t.alnumTable = s.alnumTable ∧ t.params = s.params ∧
    t.outcome = s.outcome ∧ t.pending = s.pending ∧ t.hostClock = s.hostClock ∧ t.now.portIn = s.now.portIn ∧
    t.now.portOut = s.now.portOut ∧ t.now.interrupt = s.now.interrupt := by
  obtain ⟨as, rfl⟩ := h
  simp

theorem ReadsOnly.cell {s t : State} (h : ReadsOnly s t) (c : Nat) : t.cell c = s.cell c :=
  cell_eq_of_mem_eq h.eq.1 c

theorem ReadsOnly.calls {s t : State} (h : ReadsOnly s t) : ∃ as : List Int, t.calls = s.calls ++ as.map .shuntRead := by
  obtain ⟨as, rfl⟩ := h
  exact ⟨as, rfl⟩

theorem ReadsOnly.bind {α β : Type} {s : State} {r : Res α} {f : α → State → Res β} (h : ReadsOnly s r.state)
    (hf : ∀ a t, r = .ok a t → ReadsOnly t (f a t).state) : ReadsOnly s (r.bind f).state := by
  cases r with
  | ok a t => exact h.trans (hf a t rfl)
  | raise e t => exact h

theorem ReadsOnly.of_ok {α : Type} {s t : State} {r : Res α} {a : α} (h : ReadsOnly s r.state) (hr : r = .ok a t) :
    ReadsOnly s t := by subst hr; exact h

theorem ReadsOnly.of_raise {α : Type} {s t : State} {r : Res α} {e : RuntimeError} (h : ReadsOnly s r.state)
    (hr : r = .raise e t) : ReadsOnly s t := by subst hr; exact h

/-! ### The regions -/

/-- The address map of 20_memory.md R71, region by region. -/
theorem region_eq (n : Nat) (a : Int) :
    (a < 0 ∧ region n a = .unmapped) ∨
    (0 ≤ a ∧ a < 512 ∧ region n a = .cell a.toNat) ∨
    (512 ≤ a ∧ a < 768 ∧ region n a = .shunt a.toNat) ∨
    (768 ≤ a ∧ a < 1024 ∧ region n a = .cell a.toNat) ∨
    (1024 ≤ a ∧ a < 1024 + 4 * n ∧ region n a = .mirror ((a.toNat - 1024) / 4) ((a.toNat - 1024) % 4)) ∨
    (1024 + 4 * n ≤ a ∧ region n a = .unmapped) := by
  unfold region romBase
  by_cases h0 : a < 0
  · exact .inl ⟨h0, by rw [if_pos h0]⟩
  · rw [if_neg h0]
    split_ifs
    · exact .inr (.inl ⟨by omega, by omega, rfl⟩)
    · exact .inr (.inr (.inl ⟨by omega, by omega, rfl⟩))
    · exact .inr (.inr (.inr (.inl ⟨by omega, by omega, rfl⟩)))
    · exact .inr (.inr (.inr (.inr (.inl ⟨by omega, by omega, rfl⟩))))
    · exact .inr (.inr (.inr (.inr (.inr ⟨by omega, rfl⟩))))

/-- A write check passes exactly at the cells 0 to 1023 (20_memory.md R76). -/
theorem checkWritable_ok {a : Int} {s t : State} (h : checkWritable a s = .ok () t) : t = s ∧ 0 ≤ a ∧ a < 1024 := by
  unfold checkWritable at h
  rcases region_eq s.prog.length a with h' | h' | h' | h' | h' | h' <;> simp [h'] at h <;>
    exact ⟨h.symm, by omega, by omega⟩

theorem checkWritable_state (a : Int) (s : State) : (checkWritable a s).state = s := by
  unfold checkWritable
  split <;> rfl

/-! ### What each part of the resolution does to the state -/

/-- Everything a memory read can do (20_memory.md R72, R73, R75). -/
theorem memRead_cases (a : Int) (s : State) :
    ((a < 0 ∨ 1024 + 4 * s.prog.length ≤ a ∨ 32767 < a) ∧ memRead a s = .raise ⟨4, some a⟩ s) ∨
    ((0 ≤ a ∧ a < 512 ∨ 768 ≤ a ∧ a < 1024) ∧ memRead a s = .ok (s.cell a.toNat) s) ∨
    (512 ≤ a ∧ a < 768 ∧ memRead a s = .ok ((shuntRead a s).1.getD (s.cell a.toNat)) (shuntRead a s).2) ∨
    (1024 ≤ a ∧ a ≤ 32767 ∧ a < 1024 + 4 * s.prog.length ∧
      memRead a s = .ok (mirrorWord s.prog ((a.toNat - 1024) / 4) ((a.toNat - 1024) % 4)) s) := by
  unfold memRead maxAddress
  rcases region_eq s.prog.length a with
    ⟨h, hr⟩ | ⟨h, h', hr⟩ | ⟨h, h', hr⟩ | ⟨h, h', hr⟩ | ⟨h, h', hr⟩ | ⟨h, hr⟩ <;> rw [hr]
  · exact .inl ⟨.inl h, rfl⟩
  · exact .inr (.inl ⟨.inl ⟨h, h'⟩, rfl⟩)
  · exact .inr (.inr (.inl ⟨h, h', rfl⟩))
  · exact .inr (.inl ⟨.inr ⟨h, h'⟩, rfl⟩)
  · by_cases hm : 32767 < a
    · exact .inl ⟨.inr (.inr hm), if_pos hm⟩
    · exact .inr (.inr (.inr ⟨h, by omega, h', if_neg hm⟩))
  · exact .inl ⟨.inr (.inl h), rfl⟩

theorem memRead_readsOnly (a : Int) (s : State) : ReadsOnly s (memRead a s).state := by
  rcases memRead_cases a s with ⟨-, h⟩ | ⟨-, h⟩ | ⟨-, -, h⟩ | ⟨-, -, -, h⟩ <;> rw [h]
  · exact .refl s
  · exact .refl s
  · exact ⟨[a], by simp [shuntRead]⟩
  · exact .refl s

/-- A read that faults is a read outside the readable address space, and changes nothing (20_memory.md R72, R75). -/
theorem memRead_raise {a : Int} {s t : State} {e : RuntimeError} (h : memRead a s = .raise e t) :
    t = s ∧ e = ⟨4, some a⟩ ∧ (a < 0 ∨ 1024 + 4 * s.prog.length ≤ a ∨ 32767 < a) := by
  rcases memRead_cases a s with ⟨h', e'⟩ | ⟨-, e'⟩ | ⟨-, -, e'⟩ | ⟨-, -, -, e'⟩ <;> rw [e'] at h <;> cases h
  exact ⟨rfl, rfl, h'⟩

theorem operandAddress_readsOnly (d : Operand) (s : State) : ReadsOnly s (operandAddress d s).state := by
  unfold operandAddress
  split
  · exact .refl s
  · exact .refl s
  · exact (memRead_readsOnly _ _).bind fun _ t _ => .refl t

theorem operandValue_readsOnly (d : Operand) (addr : Option Int) (s : State) :
    ReadsOnly s (operandValue d addr s).state := by
  unfold operandValue
  split
  · exact .refl s
  · exact (memRead_readsOnly _ _).bind fun _ t _ => .refl t

theorem numLookup_state (n : Int) (s : State) : (numLookup n s).state = s := by
  unfold numLookup; split <;> rfl

theorem alnumLookup_state (n : Int) (s : State) : (alnumLookup n s).state = s := by
  unfold alnumLookup; split <;> rfl

theorem jumpTarget_state (d : Operand) (n : Int) (s : State) : (jumpTarget d n s).state = s := by
  unfold jumpTarget
  split
  · exact alnumLookup_state n s
  · exact numLookup_state n s
  · exact numLookup_state n s

theorem labelEntry_state (k : JumpKind) (n : Int) (s : State) : (labelEntry k n s).state = s := by
  unfold labelEntry numLookup alnumLookup
  split
  · rfl
  · split <;> rfl
  · split <;> rfl

theorem checkDestination_state (d : Operand) (addr : Option Int) (s : State) :
    (checkDestination d addr s).state = s := by
  unfold checkDestination
  split
  · rfl
  · exact checkWritable_state _ _

theorem readsOnly_of_state_eq {α : Type} {s : State} {r : Res α} (h : r.state = s) : ReadsOnly s r.state := by
  rw [h]; exact .refl s

/-- Everything `resolve` can do to the state (40_execution_cycle.md R161): shunt reads. -/
theorem resolve_readsOnly (d : Operand) (u : Usage) (s : State) : ReadsOnly s (resolve d u s).state := by
  unfold resolve
  split
  · exact .refl s
  split
  · exact .refl s
  refine (operandAddress_readsOnly d s).bind fun addr t _ => ?_
  have hl := fun v (x : State) => readsOnly_of_state_eq (labelEntry_state d.jumpKind v x)
  have hc := fun (x : State) => readsOnly_of_state_eq (checkDestination_state d addr x)
  cases u with
  | none => exact .refl t
  | r => exact (operandValue_readsOnly d addr t).bind fun v x _ => (hl v x).bind fun _ y _ => .refl y
  | w => exact (hc t).bind fun _ y _ => .refl y
  | rw => exact (operandValue_readsOnly d addr t).bind fun v x _ => (hl v x).bind fun _ y _ => (hc y).bind fun _ z _ => .refl z
  | addr => exact (hl _ t).bind fun _ y _ => .refl y
  | jump => exact (operandValue_readsOnly d addr t).bind fun _ y _ => .refl y

theorem resolveOpcode_readsOnly (d : Operand) (s : State) : ReadsOnly s (resolveOpcode d s).state :=
  (operandAddress_readsOnly d s).bind fun addr t _ => operandValue_readsOnly d addr t

/-! ### What a resolution that went on gives -/

@[simp] theorem resolve_none (d : Operand) (s : State) : resolve d .none s = .ok ⟨none, none⟩ s := by simp [resolve]

/-- A resolved destination (usage `w` or `rw`) is the address part of its operand, a cell 0 to 1023
(40_execution_cycle.md R162, R165). -/
theorem resolve_destination {d : Operand} {u : Usage} {s t : State} {x : Resolved} (hu : u.writes = true)
    (h : resolve d u s = .ok x t) :
    ∃ a v, x.addr = some a ∧ 0 ≤ a ∧ a < 1024 ∧ operandAddress d s = .ok (some a) v := by
  have key : ∀ {addr : Option Int} {v w : State}, checkDestination d addr v = .ok () w →
      ∃ a, addr = some a ∧ 0 ≤ a ∧ a < 1024 := by
    intro addr v w hc
    cases addr with
    | none => simp [checkDestination] at hc
    | some a => have := checkWritable_ok hc; exact ⟨a, rfl, by omega, by omega⟩
  unfold resolve at h
  split at h
  · simp_all [Usage.writes]
  split at h
  · simp at h
  obtain ⟨addr, v, ha, h⟩ := Res.bind_eq_ok.mp h
  cases u <;> simp only [Usage.writes, Bool.false_eq_true] at hu
  · obtain ⟨_, w, hc, h⟩ := Res.bind_eq_ok.mp h
    obtain ⟨a, rfl, h0, hlt⟩ := key hc
    cases h
    exact ⟨a, v, rfl, h0, hlt, ha⟩
  · obtain ⟨_, w, -, h⟩ := Res.bind_eq_ok.mp h
    obtain ⟨_, w', -, h⟩ := Res.bind_eq_ok.mp h
    obtain ⟨_, w'', hc, h⟩ := Res.bind_eq_ok.mp h
    obtain ⟨a, rfl, h0, hlt⟩ := key hc
    cases h
    exact ⟨a, v, rfl, h0, hlt, ha⟩

end Sys2Proof.Machine
end

