-- ==== Sys2Proof/Laws/State.lean ====
section
/-! SUPPORT. What each named update of the state leaves and writes, one lemma per field, so that no proof unfolds a record
update. -/

namespace Sys2Proof.Machine

/-! ### `setCell`, `setReg`, `setIp` -/

@[simp] theorem setCell_mem (s : State) (n : Nat) (v : Word) : (s.setCell n v).mem = s.mem.set n v := rfl
@[simp] theorem setCell_stack (s : State) (n : Nat) (v : Word) : (s.setCell n v).stack = s.stack := rfl
@[simp] theorem setCell_ip (s : State) (n : Nat) (v : Word) : (s.setCell n v).ip = s.ip := rfl
@[simp] theorem setCell_prevIp (s : State) (n : Nat) (v : Word) : (s.setCell n v).prevIp = s.prevIp := rfl
@[simp] theorem setCell_penalty (s : State) (n : Nat) (v : Word) : (s.setCell n v).penalty = s.penalty := rfl
@[simp] theorem setCell_micro (s : State) (n : Nat) (v : Word) : (s.setCell n v).micro = s.micro := rfl
@[simp] theorem setCell_prog (s : State) (n : Nat) (v : Word) : (s.setCell n v).prog = s.prog := rfl
@[simp] theorem setCell_numTable (s : State) (n : Nat) (v : Word) : (s.setCell n v).numTable = s.numTable := rfl
@[simp] theorem setCell_alnumTable (s : State) (n : Nat) (v : Word) : (s.setCell n v).alnumTable = s.alnumTable := rfl
@[simp] theorem setCell_params (s : State) (n : Nat) (v : Word) : (s.setCell n v).params = s.params := rfl
@[simp] theorem setCell_outcome (s : State) (n : Nat) (v : Word) : (s.setCell n v).outcome = s.outcome := rfl
@[simp] theorem setCell_now (s : State) (n : Nat) (v : Word) : (s.setCell n v).now = s.now := rfl
@[simp] theorem setCell_pending (s : State) (n : Nat) (v : Word) : (s.setCell n v).pending = s.pending := rfl
@[simp] theorem setCell_hostClock (s : State) (n : Nat) (v : Word) : (s.setCell n v).hostClock = s.hostClock := rfl
@[simp] theorem setCell_calls (s : State) (n : Nat) (v : Word) : (s.setCell n v).calls = s.calls := rfl

@[simp] theorem setReg_mem (s : State) (r : Reg) (v : Word) : (s.setReg r v).mem = s.mem.set r.addr v := rfl
@[simp] theorem setReg_stack (s : State) (r : Reg) (v : Word) : (s.setReg r v).stack = s.stack := rfl
@[simp] theorem setReg_ip (s : State) (r : Reg) (v : Word) : (s.setReg r v).ip = s.ip := rfl
@[simp] theorem setReg_prevIp (s : State) (r : Reg) (v : Word) : (s.setReg r v).prevIp = s.prevIp := rfl
@[simp] theorem setReg_penalty (s : State) (r : Reg) (v : Word) : (s.setReg r v).penalty = s.penalty := rfl
@[simp] theorem setReg_micro (s : State) (r : Reg) (v : Word) : (s.setReg r v).micro = s.micro := rfl
@[simp] theorem setReg_prog (s : State) (r : Reg) (v : Word) : (s.setReg r v).prog = s.prog := rfl
@[simp] theorem setReg_numTable (s : State) (r : Reg) (v : Word) : (s.setReg r v).numTable = s.numTable := rfl
@[simp] theorem setReg_alnumTable (s : State) (r : Reg) (v : Word) : (s.setReg r v).alnumTable = s.alnumTable := rfl
@[simp] theorem setReg_params (s : State) (r : Reg) (v : Word) : (s.setReg r v).params = s.params := rfl
@[simp] theorem setReg_outcome (s : State) (r : Reg) (v : Word) : (s.setReg r v).outcome = s.outcome := rfl
@[simp] theorem setReg_now (s : State) (r : Reg) (v : Word) : (s.setReg r v).now = s.now := rfl
@[simp] theorem setReg_pending (s : State) (r : Reg) (v : Word) : (s.setReg r v).pending = s.pending := rfl
@[simp] theorem setReg_hostClock (s : State) (r : Reg) (v : Word) : (s.setReg r v).hostClock = s.hostClock := rfl
@[simp] theorem setReg_calls (s : State) (r : Reg) (v : Word) : (s.setReg r v).calls = s.calls := rfl

@[simp] theorem setIp_ip (s : State) (t : Nat) : (s.setIp t).ip = t := rfl
@[simp] theorem setIp_mem (s : State) (t : Nat) : (s.setIp t).mem = s.mem := rfl
@[simp] theorem setIp_stack (s : State) (t : Nat) : (s.setIp t).stack = s.stack := rfl
@[simp] theorem setIp_prevIp (s : State) (t : Nat) : (s.setIp t).prevIp = s.prevIp := rfl
@[simp] theorem setIp_penalty (s : State) (t : Nat) : (s.setIp t).penalty = s.penalty := rfl
@[simp] theorem setIp_micro (s : State) (t : Nat) : (s.setIp t).micro = s.micro := rfl
@[simp] theorem setIp_prog (s : State) (t : Nat) : (s.setIp t).prog = s.prog := rfl
@[simp] theorem setIp_numTable (s : State) (t : Nat) : (s.setIp t).numTable = s.numTable := rfl
@[simp] theorem setIp_alnumTable (s : State) (t : Nat) : (s.setIp t).alnumTable = s.alnumTable := rfl
@[simp] theorem setIp_params (s : State) (t : Nat) : (s.setIp t).params = s.params := rfl
@[simp] theorem setIp_outcome (s : State) (t : Nat) : (s.setIp t).outcome = s.outcome := rfl
@[simp] theorem setIp_now (s : State) (t : Nat) : (s.setIp t).now = s.now := rfl
@[simp] theorem setIp_pending (s : State) (t : Nat) : (s.setIp t).pending = s.pending := rfl
@[simp] theorem setIp_hostClock (s : State) (t : Nat) : (s.setIp t).hostClock = s.hostClock := rfl
@[simp] theorem setIp_calls (s : State) (t : Nat) : (s.setIp t).calls = s.calls := rfl

/-! ### The commit and the end of an instruction -/

/-- Everything the commit can do: `penalty` and `micro` (40_execution_cycle.md R176). -/
theorem commit_eq (s : State) (c : Nat) :
    s.commit c = { s with
      penalty := if c = 0 then (if microLimit ≤ s.micro + 1 then 1 else 0) else c
      micro := if c = 0 then (if microLimit ≤ s.micro + 1 then 0 else s.micro + 1) else 0 } := by
  unfold State.commit
  split_ifs <;> rfl

@[simp] theorem commit_mem (s : State) (c : Nat) : (s.commit c).mem = s.mem := by rw [commit_eq]
@[simp] theorem commit_stack (s : State) (c : Nat) : (s.commit c).stack = s.stack := by rw [commit_eq]
@[simp] theorem commit_ip (s : State) (c : Nat) : (s.commit c).ip = s.ip := by rw [commit_eq]
@[simp] theorem commit_prevIp (s : State) (c : Nat) : (s.commit c).prevIp = s.prevIp := by rw [commit_eq]
@[simp] theorem commit_prog (s : State) (c : Nat) : (s.commit c).prog = s.prog := by rw [commit_eq]
@[simp] theorem commit_numTable (s : State) (c : Nat) : (s.commit c).numTable = s.numTable := by rw [commit_eq]
@[simp] theorem commit_alnumTable (s : State) (c : Nat) : (s.commit c).alnumTable = s.alnumTable := by rw [commit_eq]
@[simp] theorem commit_params (s : State) (c : Nat) : (s.commit c).params = s.params := by rw [commit_eq]
@[simp] theorem commit_outcome (s : State) (c : Nat) : (s.commit c).outcome = s.outcome := by rw [commit_eq]
@[simp] theorem commit_now (s : State) (c : Nat) : (s.commit c).now = s.now := by rw [commit_eq]
@[simp] theorem commit_pending (s : State) (c : Nat) : (s.commit c).pending = s.pending := by rw [commit_eq]
@[simp] theorem commit_hostClock (s : State) (c : Nat) : (s.commit c).hostClock = s.hostClock := by rw [commit_eq]
@[simp] theorem commit_calls (s : State) (c : Nat) : (s.commit c).calls = s.calls := by rw [commit_eq]

@[simp] theorem executed_outcome (s : State) (o : Opcode) (arg : Option Int) : (s.executed o arg).outcome = some (.executed s.prevIp o) := rfl
@[simp] theorem executed_penalty (s : State) (o : Opcode) (arg : Option Int) : (s.executed o arg).penalty = (s.commit (penaltyOf s.params o arg)).penalty := rfl
@[simp] theorem executed_micro (s : State) (o : Opcode) (arg : Option Int) : (s.executed o arg).micro = (s.commit (penaltyOf s.params o arg)).micro := rfl
@[simp] theorem executed_mem (s : State) (o : Opcode) (arg : Option Int) : (s.executed o arg).mem = s.mem := by simp [State.executed]
@[simp] theorem executed_stack (s : State) (o : Opcode) (arg : Option Int) : (s.executed o arg).stack = s.stack := by simp [State.executed]
@[simp] theorem executed_ip (s : State) (o : Opcode) (arg : Option Int) : (s.executed o arg).ip = s.ip := by simp [State.executed]
@[simp] theorem executed_prevIp (s : State) (o : Opcode) (arg : Option Int) : (s.executed o arg).prevIp = s.prevIp := by simp [State.executed]
@[simp] theorem executed_prog (s : State) (o : Opcode) (arg : Option Int) : (s.executed o arg).prog = s.prog := by simp [State.executed]
@[simp] theorem executed_numTable (s : State) (o : Opcode) (arg : Option Int) : (s.executed o arg).numTable = s.numTable := by simp [State.executed]
@[simp] theorem executed_alnumTable (s : State) (o : Opcode) (arg : Option Int) : (s.executed o arg).alnumTable = s.alnumTable := by simp [State.executed]
@[simp] theorem executed_params (s : State) (o : Opcode) (arg : Option Int) : (s.executed o arg).params = s.params := by simp [State.executed]
@[simp] theorem executed_now (s : State) (o : Opcode) (arg : Option Int) : (s.executed o arg).now = s.now := by simp [State.executed]
@[simp] theorem executed_pending (s : State) (o : Opcode) (arg : Option Int) : (s.executed o arg).pending = s.pending := by simp [State.executed]
@[simp] theorem executed_hostClock (s : State) (o : Opcode) (arg : Option Int) : (s.executed o arg).hostClock = s.hostClock := by simp [State.executed]
@[simp] theorem executed_calls (s : State) (o : Opcode) (arg : Option Int) : (s.executed o arg).calls = s.calls := by simp [State.executed]

@[simp] theorem runtimeError_outcome (s : State) (o : Option Opcode) (arg : Option Int) (e : RuntimeError) : (s.runtimeError o arg e).outcome = some (.faulted s.prevIp e) := rfl
@[simp] theorem runtimeError_penalty (s : State) (o : Option Opcode) (arg : Option Int) (e : RuntimeError) : (s.runtimeError o arg e).penalty = (s.commit (faultCost s.params o arg)).penalty := rfl
@[simp] theorem runtimeError_micro (s : State) (o : Option Opcode) (arg : Option Int) (e : RuntimeError) : (s.runtimeError o arg e).micro = (s.commit (faultCost s.params o arg)).micro := rfl
@[simp] theorem runtimeError_mem (s : State) (o : Option Opcode) (arg : Option Int) (e : RuntimeError) : (s.runtimeError o arg e).mem = s.mem := by simp [State.runtimeError]
@[simp] theorem runtimeError_stack (s : State) (o : Option Opcode) (arg : Option Int) (e : RuntimeError) : (s.runtimeError o arg e).stack = s.stack := by simp [State.runtimeError]
@[simp] theorem runtimeError_ip (s : State) (o : Option Opcode) (arg : Option Int) (e : RuntimeError) : (s.runtimeError o arg e).ip = s.ip := by simp [State.runtimeError]
@[simp] theorem runtimeError_prevIp (s : State) (o : Option Opcode) (arg : Option Int) (e : RuntimeError) : (s.runtimeError o arg e).prevIp = s.prevIp := by simp [State.runtimeError]
@[simp] theorem runtimeError_prog (s : State) (o : Option Opcode) (arg : Option Int) (e : RuntimeError) : (s.runtimeError o arg e).prog = s.prog := by simp [State.runtimeError]
@[simp] theorem runtimeError_numTable (s : State) (o : Option Opcode) (arg : Option Int) (e : RuntimeError) : (s.runtimeError o arg e).numTable = s.numTable := by simp [State.runtimeError]
@[simp] theorem runtimeError_alnumTable (s : State) (o : Option Opcode) (arg : Option Int) (e : RuntimeError) : (s.runtimeError o arg e).alnumTable = s.alnumTable := by simp [State.runtimeError]
@[simp] theorem runtimeError_params (s : State) (o : Option Opcode) (arg : Option Int) (e : RuntimeError) : (s.runtimeError o arg e).params = s.params := by simp [State.runtimeError]
@[simp] theorem runtimeError_now (s : State) (o : Option Opcode) (arg : Option Int) (e : RuntimeError) : (s.runtimeError o arg e).now = s.now := by simp [State.runtimeError]
@[simp] theorem runtimeError_pending (s : State) (o : Option Opcode) (arg : Option Int) (e : RuntimeError) : (s.runtimeError o arg e).pending = s.pending := by simp [State.runtimeError]
@[simp] theorem runtimeError_hostClock (s : State) (o : Option Opcode) (arg : Option Int) (e : RuntimeError) : (s.runtimeError o arg e).hostClock = s.hostClock := by simp [State.runtimeError]
@[simp] theorem runtimeError_calls (s : State) (o : Option Opcode) (arg : Option Int) (e : RuntimeError) : (s.runtimeError o arg e).calls = s.calls := by simp [State.runtimeError]

/-! ### The host calls and the stages around an instruction -/

@[simp] theorem call_calls (s : State) (c : HostCall) : (s.call c).calls = s.calls ++ [c] := rfl
@[simp] theorem call_mem (s : State) (c : HostCall) : (s.call c).mem = s.mem := rfl
@[simp] theorem call_stack (s : State) (c : HostCall) : (s.call c).stack = s.stack := rfl
@[simp] theorem call_ip (s : State) (c : HostCall) : (s.call c).ip = s.ip := rfl
@[simp] theorem call_prevIp (s : State) (c : HostCall) : (s.call c).prevIp = s.prevIp := rfl
@[simp] theorem call_penalty (s : State) (c : HostCall) : (s.call c).penalty = s.penalty := rfl
@[simp] theorem call_micro (s : State) (c : HostCall) : (s.call c).micro = s.micro := rfl
@[simp] theorem call_prog (s : State) (c : HostCall) : (s.call c).prog = s.prog := rfl
@[simp] theorem call_numTable (s : State) (c : HostCall) : (s.call c).numTable = s.numTable := rfl
@[simp] theorem call_alnumTable (s : State) (c : HostCall) : (s.call c).alnumTable = s.alnumTable := rfl
@[simp] theorem call_params (s : State) (c : HostCall) : (s.call c).params = s.params := rfl
@[simp] theorem call_outcome (s : State) (c : HostCall) : (s.call c).outcome = s.outcome := rfl
@[simp] theorem call_now (s : State) (c : HostCall) : (s.call c).now = s.now := rfl
@[simp] theorem call_pending (s : State) (c : HostCall) : (s.call c).pending = s.pending := rfl
@[simp] theorem call_hostClock (s : State) (c : HostCall) : (s.call c).hostClock = s.hostClock := rfl

@[simp] theorem softReset_mem (s : State) : s.softReset.mem = [] := rfl
@[simp] theorem softReset_stack (s : State) : s.softReset.stack = [] := rfl
@[simp] theorem softReset_ip (s : State) : s.softReset.ip = 0 := rfl
@[simp] theorem softReset_prevIp (s : State) : (s.softReset).prevIp = s.prevIp := rfl
@[simp] theorem softReset_penalty (s : State) : (s.softReset).penalty = s.penalty := rfl
@[simp] theorem softReset_micro (s : State) : (s.softReset).micro = s.micro := rfl
@[simp] theorem softReset_prog (s : State) : (s.softReset).prog = s.prog := rfl
@[simp] theorem softReset_numTable (s : State) : (s.softReset).numTable = s.numTable := rfl
@[simp] theorem softReset_alnumTable (s : State) : (s.softReset).alnumTable = s.alnumTable := rfl
@[simp] theorem softReset_params (s : State) : (s.softReset).params = s.params := rfl
@[simp] theorem softReset_outcome (s : State) : (s.softReset).outcome = s.outcome := rfl
@[simp] theorem softReset_now (s : State) : (s.softReset).now = s.now := rfl
@[simp] theorem softReset_pending (s : State) : (s.softReset).pending = s.pending := rfl
@[simp] theorem softReset_hostClock (s : State) : (s.softReset).hostClock = s.hostClock := rfl
@[simp] theorem softReset_calls (s : State) : (s.softReset).calls = s.calls := rfl

@[simp] theorem skipped_outcome (s : State) : s.skipped.outcome = some (.skipped s.prevIp) := rfl
@[simp] theorem skipped_mem (s : State) : (s.skipped).mem = s.mem := rfl
@[simp] theorem skipped_stack (s : State) : (s.skipped).stack = s.stack := rfl
@[simp] theorem skipped_ip (s : State) : (s.skipped).ip = s.ip := rfl
@[simp] theorem skipped_prevIp (s : State) : (s.skipped).prevIp = s.prevIp := rfl
@[simp] theorem skipped_penalty (s : State) : (s.skipped).penalty = s.penalty := rfl
@[simp] theorem skipped_micro (s : State) : (s.skipped).micro = s.micro := rfl
@[simp] theorem skipped_prog (s : State) : (s.skipped).prog = s.prog := rfl
@[simp] theorem skipped_numTable (s : State) : (s.skipped).numTable = s.numTable := rfl
@[simp] theorem skipped_alnumTable (s : State) : (s.skipped).alnumTable = s.alnumTable := rfl
@[simp] theorem skipped_params (s : State) : (s.skipped).params = s.params := rfl
@[simp] theorem skipped_now (s : State) : (s.skipped).now = s.now := rfl
@[simp] theorem skipped_pending (s : State) : (s.skipped).pending = s.pending := rfl
@[simp] theorem skipped_hostClock (s : State) : (s.skipped).hostClock = s.hostClock := rfl
@[simp] theorem skipped_calls (s : State) : (s.skipped).calls = s.calls := rfl

@[simp] theorem refreshShadow_calls (s : State) : s.refreshShadow.calls = s.calls ++ [.shadow] := rfl
@[simp] theorem refreshShadow_stack (s : State) : (s.refreshShadow).stack = s.stack := rfl
@[simp] theorem refreshShadow_ip (s : State) : (s.refreshShadow).ip = s.ip := rfl
@[simp] theorem refreshShadow_prevIp (s : State) : (s.refreshShadow).prevIp = s.prevIp := rfl
@[simp] theorem refreshShadow_penalty (s : State) : (s.refreshShadow).penalty = s.penalty := rfl
@[simp] theorem refreshShadow_micro (s : State) : (s.refreshShadow).micro = s.micro := rfl
@[simp] theorem refreshShadow_prog (s : State) : (s.refreshShadow).prog = s.prog := rfl
@[simp] theorem refreshShadow_numTable (s : State) : (s.refreshShadow).numTable = s.numTable := rfl
@[simp] theorem refreshShadow_alnumTable (s : State) : (s.refreshShadow).alnumTable = s.alnumTable := rfl
@[simp] theorem refreshShadow_params (s : State) : (s.refreshShadow).params = s.params := rfl
@[simp] theorem refreshShadow_outcome (s : State) : (s.refreshShadow).outcome = s.outcome := rfl
@[simp] theorem refreshShadow_now (s : State) : (s.refreshShadow).now = s.now := rfl
@[simp] theorem refreshShadow_pending (s : State) : (s.refreshShadow).pending = s.pending := rfl
@[simp] theorem refreshShadow_hostClock (s : State) : (s.refreshShadow).hostClock = s.hostClock := rfl

@[simp] theorem fetched_ip (s : State) : s.fetched.ip = (s.ip + 1) % s.prog.length := rfl
@[simp] theorem fetched_prevIp (s : State) : s.fetched.prevIp = s.ip := rfl
@[simp] theorem fetched_calls (s : State) : s.fetched.calls = s.calls ++ [.shadow] := rfl
@[simp] theorem fetched_stack (s : State) : (s.fetched).stack = s.stack := rfl
@[simp] theorem fetched_penalty (s : State) : (s.fetched).penalty = s.penalty := rfl
@[simp] theorem fetched_micro (s : State) : (s.fetched).micro = s.micro := rfl
@[simp] theorem fetched_prog (s : State) : (s.fetched).prog = s.prog := rfl
@[simp] theorem fetched_numTable (s : State) : (s.fetched).numTable = s.numTable := rfl
@[simp] theorem fetched_alnumTable (s : State) : (s.fetched).alnumTable = s.alnumTable := rfl
@[simp] theorem fetched_params (s : State) : (s.fetched).params = s.params := rfl
@[simp] theorem fetched_outcome (s : State) : (s.fetched).outcome = s.outcome := rfl
@[simp] theorem fetched_now (s : State) : (s.fetched).now = s.now := rfl
@[simp] theorem fetched_pending (s : State) : (s.fetched).pending = s.pending := rfl
@[simp] theorem fetched_hostClock (s : State) : (s.fetched).hostClock = s.hostClock := rfl

@[simp] theorem beginStep_calls (s : State) : s.beginStep.calls = [.disabled] := by unfold State.beginStep; split <;> rfl
@[simp] theorem beginStep_hostClock (s : State) : s.beginStep.hostClock = s.hostClock + 1 := by unfold State.beginStep; split <;> rfl
@[simp] theorem beginStep_mem (s : State) : (s.beginStep).mem = s.mem := by unfold State.beginStep; split <;> rfl
@[simp] theorem beginStep_stack (s : State) : (s.beginStep).stack = s.stack := by unfold State.beginStep; split <;> rfl
@[simp] theorem beginStep_ip (s : State) : (s.beginStep).ip = s.ip := by unfold State.beginStep; split <;> rfl
@[simp] theorem beginStep_prevIp (s : State) : (s.beginStep).prevIp = s.prevIp := by unfold State.beginStep; split <;> rfl
@[simp] theorem beginStep_penalty (s : State) : (s.beginStep).penalty = s.penalty := by unfold State.beginStep; split <;> rfl
@[simp] theorem beginStep_micro (s : State) : (s.beginStep).micro = s.micro := by unfold State.beginStep; split <;> rfl
@[simp] theorem beginStep_prog (s : State) : (s.beginStep).prog = s.prog := by unfold State.beginStep; split <;> rfl
@[simp] theorem beginStep_numTable (s : State) : (s.beginStep).numTable = s.numTable := by unfold State.beginStep; split <;> rfl
@[simp] theorem beginStep_alnumTable (s : State) : (s.beginStep).alnumTable = s.alnumTable := by unfold State.beginStep; split <;> rfl
@[simp] theorem beginStep_params (s : State) : (s.beginStep).params = s.params := by unfold State.beginStep; split <;> rfl
@[simp] theorem beginStep_outcome (s : State) : (s.beginStep).outcome = s.outcome := by unfold State.beginStep; split <;> rfl

/-! ### The writes of an interrupt -/

@[simp] theorem applyWrites_stack (s : State) (ws : List (Fin 14 × Word)) : (s.applyWrites ws).stack = s.stack := by
  induction ws generalizing s with
  | nil => rfl
  | cons w ws ih => simp [State.applyWrites, ih]
@[simp] theorem applyWrites_ip (s : State) (ws : List (Fin 14 × Word)) : (s.applyWrites ws).ip = s.ip := by
  induction ws generalizing s with
  | nil => rfl
  | cons w ws ih => simp [State.applyWrites, ih]
@[simp] theorem applyWrites_prevIp (s : State) (ws : List (Fin 14 × Word)) : (s.applyWrites ws).prevIp = s.prevIp := by
  induction ws generalizing s with
  | nil => rfl
  | cons w ws ih => simp [State.applyWrites, ih]
@[simp] theorem applyWrites_penalty (s : State) (ws : List (Fin 14 × Word)) : (s.applyWrites ws).penalty = s.penalty := by
  induction ws generalizing s with
  | nil => rfl
  | cons w ws ih => simp [State.applyWrites, ih]
@[simp] theorem applyWrites_micro (s : State) (ws : List (Fin 14 × Word)) : (s.applyWrites ws).micro = s.micro := by
  induction ws generalizing s with
  | nil => rfl
  | cons w ws ih => simp [State.applyWrites, ih]
@[simp] theorem applyWrites_prog (s : State) (ws : List (Fin 14 × Word)) : (s.applyWrites ws).prog = s.prog := by
  induction ws generalizing s with
  | nil => rfl
  | cons w ws ih => simp [State.applyWrites, ih]
@[simp] theorem applyWrites_numTable (s : State) (ws : List (Fin 14 × Word)) : (s.applyWrites ws).numTable = s.numTable := by
  induction ws generalizing s with
  | nil => rfl
  | cons w ws ih => simp [State.applyWrites, ih]
@[simp] theorem applyWrites_alnumTable (s : State) (ws : List (Fin 14 × Word)) : (s.applyWrites ws).alnumTable = s.alnumTable := by
  induction ws generalizing s with
  | nil => rfl
  | cons w ws ih => simp [State.applyWrites, ih]
@[simp] theorem applyWrites_params (s : State) (ws : List (Fin 14 × Word)) : (s.applyWrites ws).params = s.params := by
  induction ws generalizing s with
  | nil => rfl
  | cons w ws ih => simp [State.applyWrites, ih]
@[simp] theorem applyWrites_outcome (s : State) (ws : List (Fin 14 × Word)) : (s.applyWrites ws).outcome = s.outcome := by
  induction ws generalizing s with
  | nil => rfl
  | cons w ws ih => simp [State.applyWrites, ih]
@[simp] theorem applyWrites_now (s : State) (ws : List (Fin 14 × Word)) : (s.applyWrites ws).now = s.now := by
  induction ws generalizing s with
  | nil => rfl
  | cons w ws ih => simp [State.applyWrites, ih]
@[simp] theorem applyWrites_pending (s : State) (ws : List (Fin 14 × Word)) : (s.applyWrites ws).pending = s.pending := by
  induction ws generalizing s with
  | nil => rfl
  | cons w ws ih => simp [State.applyWrites, ih]
@[simp] theorem applyWrites_hostClock (s : State) (ws : List (Fin 14 × Word)) : (s.applyWrites ws).hostClock = s.hostClock := by
  induction ws generalizing s with
  | nil => rfl
  | cons w ws ih => simp [State.applyWrites, ih]
@[simp] theorem applyWrites_calls (s : State) (ws : List (Fin 14 × Word)) : (s.applyWrites ws).calls = s.calls := by
  induction ws generalizing s with
  | nil => rfl
  | cons w ws ih => simp [State.applyWrites, ih]

end Sys2Proof.Machine
end

