-- ==== Sys2Proof/Laws/Run.lean ====
section
/-! SUPPORT. The stages of the step around an instruction's rule: everything `runInstr` can do, and the lemmas of the shared
rules. -/

namespace Sys2Proof.Machine

/-- Everything `runInstr` can do (40_execution_cycle.md R150): the structural fault, a fault of A's or of B's resolution, or
the end of the instruction's rule after both were resolved. -/
theorem runInstr_cases {opc : Opcode} {dA dB : Operand} {rule : Resolved → Resolved → State → Res Unit} {s t : State}
    (h : runInstr opc dA dB rule s = .next t) :
    (∃ w, structuralCheck opc dA dB = some w ∧
      t = s.runtimeError (some opc) none (ErrorKind.readOnly.error (some w.toInt))) ∨
    (structuralCheck opc dA dB = none ∧ ∃ e u, resolve dA (useA opc) s = .raise e u ∧
      t = u.runtimeError (some opc) none e) ∨
    (structuralCheck opc dA dB = none ∧ ∃ a u, resolve dA (useA opc) s = .ok a u ∧
      ((∃ e x, resolve dB (useB opc) u = .raise e x ∧ t = x.runtimeError (some opc) a.val e) ∨
       (∃ b x, resolve dB (useB opc) u = .ok b x ∧ t = finish opc a.val (rule a b x)))) := by
  unfold runInstr at h
  split at h
  · next w hw => cases h; exact .inl ⟨w, hw, rfl⟩
  · next hw =>
    refine .inr ?_
    split at h
    · next e u hA => cases h; exact .inl ⟨hw, e, u, hA, rfl⟩
    · next a u hA =>
      refine .inr ⟨hw, a, u, hA, ?_⟩
      cases hB : resolve dB (useB opc) u with
      | raise e x => rw [hB] at h; cases h; exact .inl ⟨e, x, rfl, rfl⟩
      | ok b x => rw [hB] at h; cases h; exact .inr ⟨b, x, rfl, rfl⟩

/-- An instruction always has a next state: a runtime error is one (40_execution_cycle.md R173). -/
theorem runInstr_next (opc : Opcode) (dA dB : Operand) (rule : Resolved → Resolved → State → Res Unit) (s : State) :
    ∃ t, runInstr opc dA dB rule s = .next t := by
  unfold runInstr
  split
  · exact ⟨_, rfl⟩
  · split <;> exact ⟨_, rfl⟩

/-- The run of an instruction whose operands resolved. -/
theorem runInstr_ok {opc : Opcode} {dA dB : Operand} {rule : Resolved → Resolved → State → Res Unit} {s t u : State}
    {a b : Resolved} (hs : structuralCheck opc dA dB = none) (hA : resolve dA (useA opc) s = .ok a t)
    (hB : resolve dB (useB opc) t = .ok b u) :
    runInstr opc dA dB rule s = .next (finish opc a.val (rule a b u)) := by
  simp [runInstr, hs, hA, hB]

@[simp] theorem finish_ok (opc : Opcode) (arg : Option Int) (s : State) :
    finish opc arg (.ok () s) = s.executed opc arg := rfl

@[simp] theorem finish_raise (opc : Opcode) (arg : Option Int) (e : RuntimeError) (s : State) :
    finish opc arg (.raise e s) = s.runtimeError (some opc) arg e := rfl

@[simp] theorem writeBack_some (a : Int) (v : Word) (x : Option Int) (s : State) :
    writeBack ⟨some a, x⟩ v s = .ok () (s.setCell a.toNat v) := rfl

/-- The word a store of an `i16` value leaves is that value (00_scope.md R8). -/
theorem storeWord_toInt {v : Int} (h : -32768 ≤ v) (h' : v < 32768) : (storeWord v).toInt = v := by
  rw [storeWord, if_pos ⟨h, h'⟩, BitVec.toInt_ofInt]
  exact Int.bmod_eq_of_le (by omega) (by omega)

/-- A stored word is stored again as itself. -/
@[simp] theorem storeWord_of_toInt (w : Word) : storeWord w.toInt = w :=
  BitVec.eq_of_toInt_eq (storeWord_toInt (by have := w.le_toInt; omega) (by have := w.toInt_lt; omega))

/-- Everything a push can do (44_subroutine_loop_stack.md R300, R302). -/
theorem pushWord_cases (v : Word) (s : State) :
    (((s.cell 7).toInt < 0 ∨ (s.params.stackSize : Int) ≤ (s.cell 7).toInt) ∧
      pushWord v s = .raise ⟨1, some (s.cell 7).toInt⟩ s) ∨
    (0 ≤ (s.cell 7).toInt ∧ (s.cell 7).toInt < s.params.stackSize ∧
      pushWord v s = .ok () ({ s with stack := s.stack.set (s.cell 7).toNat v }.setCell 7
        (storeWord ((s.cell 7).toInt + 1)))) := by
  have hsp : s.reg .sp = s.cell 7 := rfl
  unfold pushWord
  rw [hsp]
  split
  · next h => exact .inl ⟨h, rfl⟩
  · next h => exact .inr ⟨by omega, by omega, rfl⟩

/-- Everything a pop can do (44_subroutine_loop_stack.md R301, R303). -/
theorem popWord_cases (s : State) :
    (((s.cell 7).toInt ≤ 0 ∨ (s.params.stackSize : Int) < (s.cell 7).toInt) ∧
      popWord s = .raise ⟨5, some (s.cell 7).toInt⟩ s) ∨
    (0 < (s.cell 7).toInt ∧ (s.cell 7).toInt ≤ s.params.stackSize ∧
      popWord s = .ok (s.stack.get ((s.cell 7).toNat - 1)) (s.setCell 7 (s.cell 7 - 1))) := by
  have hsp : s.reg .sp = s.cell 7 := rfl
  unfold popWord
  rw [hsp]
  split
  · next h => exact .inl ⟨h, rfl⟩
  · next h => exact .inr ⟨by omega, by omega, rfl⟩

/-- Everything a jump target lookup can do (40_execution_cycle.md R168). -/
theorem jumpTarget_cases (d : Operand) (n : Int) (s : State) :
    (∃ k, jumpTarget d n s = .ok k s ∧
      lookupLabel (if d.jumpKind = .symbolic then s.alnumTable else s.numTable) n = some k) ∨
    (jumpTarget d n s = .raise ⟨if d.jumpKind = .symbolic then 9 else 2, some n⟩ s ∧
      lookupLabel (if d.jumpKind = .symbolic then s.alnumTable else s.numTable) n = none) := by
  unfold jumpTarget
  cases hk : d.jumpKind <;> simp only [alnumLookup, numLookup, reduceCtorEq, if_true, if_false]
  · cases lookupLabel s.numTable n <;> simp [ErrorKind.error, ErrorKind.code]
  · cases lookupLabel s.numTable n <;> simp [ErrorKind.error, ErrorKind.code]
  · cases lookupLabel s.alnumTable n <;> simp [ErrorKind.error, ErrorKind.code]

/-- Everything a memory write can do (20_memory.md R76). -/
theorem memWrite_cases (a : Int) (v : Word) (s : State) :
    (0 ≤ a ∧ a < 1024 ∧ memWrite a v s = .ok () (s.setCell a.toNat v)) ∨
    (1024 ≤ a ∧ a < 1024 + 4 * s.prog.length ∧ memWrite a v s = .raise ⟨3, some a⟩ s) ∨
    ((a < 0 ∨ 1024 + 4 * s.prog.length ≤ a) ∧ memWrite a v s = .raise ⟨4, some a⟩ s) := by
  unfold memWrite checkWritable
  rcases region_eq s.prog.length a with
    ⟨h, hr⟩ | ⟨h, h', hr⟩ | ⟨h, h', hr⟩ | ⟨h, h', hr⟩ | ⟨h, h', hr⟩ | ⟨h, hr⟩ <;> rw [hr]
  · exact .inr (.inr ⟨.inl h, rfl⟩)
  · exact .inl ⟨h, by omega, rfl⟩
  · exact .inl ⟨by omega, by omega, rfl⟩
  · exact .inl ⟨by omega, h', rfl⟩
  · exact .inr (.inl ⟨h, h', rfl⟩)
  · exact .inr (.inr ⟨.inr h, rfl⟩)

/-- The writes of an interrupt reach no cell from 14 on (60_exceptions.md R412). -/
theorem applyWrites_cell (ws : List (Fin 14 × Word)) (s : State) {c : Nat} (hc : 14 ≤ c) :
    (s.applyWrites ws).cell c = s.cell c := by
  induction ws generalizing s with
  | nil => rfl
  | cons w ws ih =>
    obtain ⟨a, v⟩ := w
    rw [State.applyWrites, ih, cell_setCell, if_neg (by omega)]

/-- The interrupt's writes in list order are a left fold (46_system_io.md R364). -/
theorem applyWrites_eq_foldl (ws : List (Fin 14 × Word)) (s : State) :
    s.applyWrites ws = ws.foldl (fun (x : State) (w : Fin 14 × Word) => x.setCell w.1.val w.2) s := by
  induction ws generalizing s with
  | nil => rfl
  | cons w ws ih => obtain ⟨a, v⟩ := w; exact ih _

/-- The writes of an interrupt keep the memory canonical. -/
theorem applyWrites_wf (ws : List (Fin 14 × Word)) (s : State) (h : Memory.wf s.mem = true) :
    Memory.wf (s.applyWrites ws).mem = true := by
  induction ws generalizing s with
  | nil => exact h
  | cons w ws ih => obtain ⟨a, v⟩ := w; exact ih _ (Memory.wf_set h (by omega) v)

/-- The shadow refresh keeps the memory canonical (40_execution_cycle.md R154). -/
theorem refreshShadow_wf (s : State) (h : Memory.wf s.mem = true) : Memory.wf s.refreshShadow.mem = true := by
  simp only [State.refreshShadow, setCell_mem]
  repeat' apply Memory.wf_set
  all_goals first | exact h | omega

/-- The memory after reset is canonical (70_reset_and_hazards.md R450). -/
theorem reset_mem_wf : Memory.wf State.reset.mem = true := rfl

/-- A memory write keeps the memory canonical (20_memory.md R76). -/
theorem memWrite_wf {a : Int} {v : Word} {s t : State} (hw : memWrite a v s = .ok () t) (h : Memory.wf s.mem = true) :
    Memory.wf t.mem = true := by
  rcases memWrite_cases a v s with ⟨h0, ha, e⟩ | ⟨-, -, e⟩ | ⟨-, e⟩ <;> rw [e] at hw <;> cases hw
  exact Memory.wf_set h (by omega) v

end Sys2Proof.Machine
end

