-- ==== Sys2Proof/Tests/Slice0.lean ====
section
/-! SUPPORT. The model's own tests. Expected values come from spec/95_test_vectors.md, whose vector each comment names, or
from the encoding rules of spec/30_encoding.md. The last part shows, for every statement with hypotheses, a state that meets
them. -/

open Sys2Proof Sys2Proof.Machine

namespace Sys2Proof.Tests

/-! ### Operands and small states -/

/-- A literal operand. -/
def lit (n : Word) : Operand := ⟨n, .literal, false⟩

/-- `@n`, or the register whose cell is `n`. -/
def ind (n : Word) : Operand := ⟨n, .indirectOne, false⟩

/-- `[@n]`. -/
def ind2 (n : Word) : Operand := ⟨n, .indirectOne, true⟩

/-- `:n`. -/
def num (n : Word) : Operand := ⟨n, .numericJump, false⟩

/-- `!n`. -/
def sym (n : Word) : Operand := ⟨n, .symbolicJump, false⟩

/-- A field with a reserved nibble. -/
def res (n : Word) : Operand := ⟨n, .reserved5, false⟩

/-- The cells of a list. -/
def cells (l : List (Nat × Word)) : Cells := l.foldl (fun m e => m.set e.1 e.2) []

/-- The single-step start of spec/95_test_vectors.md: the record at index 0, the trailing NOP, the listed cells set, and the
host's next answers; `NUM_TABLE = [0, 1, undefined]`, `ALNUM_TABLE = [undefined]`. -/
def startWith (h : HostAnswers) (r : Record) (l : List (Nat × Word)) : State :=
  { State.reset with
    prog := [r, Record.nop], mem := cells l, numTable := [some 0, some 1, none], alnumTable := [none], pending := [h] }

/-- The same with the quiet host. -/
def start (r : Record) (l : List (Nat × Word)) : State := startWith quietHost r l

/-- The state after one step. -/
def after (s : State) : State :=
  match step s with
  | .next t => t
  | .fault _ => s
  | .refused _ => s

/-- The values of some cells after one step. -/
def cellsAfter (s : State) (l : List Nat) : List Word := l.map (after s).cell

/-- The error a step reports. -/
def errorAfter (s : State) : Option RuntimeError :=
  match (after s).outcome with
  | some (.faulted _ e) => some e
  | _ => none

/-- AX after `op ax, bx` with AX = a, BX = b (the form of V41 and V42). -/
def axAfter (op a b : Word) : List Word := cellsAfter (start ⟨op, 0x0110, 1, 2⟩ [(1, a), (2, b)]) [1]

/-- AX after `add ax, :0` with AX = 0 and NUM[0] = n. -/
def axAfterLabel (n : Nat) : List Word := cellsAfter { start ⟨1, 0x0210, 1, 0⟩ [] with numTable := [some n] } [1]

/-- FLAGS after `op a, b` on literals with old FLAGS `f` (the form of V43). -/
def flagsAfter (op f a b : Word) : List Word := cellsAfter (start ⟨op, 0x0000, a, b⟩ [(0, f)]) [0]

/-- Whether a conditional jump to `:0` is taken, for the FLAGS values of the table of V43. -/
def takenFor (op : Word) : List Bool :=
  [0, 1, 2, 4, 8, 9].map fun f => (after (start ⟨op, 0x0020, 0, 0⟩ [(0, f)])).ip == 0

/-! ### Well-formedness: each check refuses an ill-formed term -/

theorem test_wellFormed_reserved_nibble_used : (Instr.add (ind 1) (res 3)).wellFormed = false := by decide
theorem test_wellFormed_reserved_nibble_destination : (Instr.inc (res 1)).wellFormed = false := by decide
theorem test_wellFormed_literal_destination : (Instr.mov (lit 5) (ind 1)).wellFormed = false := by decide
theorem test_wellFormed_jump_destination : (Instr.mov (num 3) (lit 5)).wellFormed = false := by decide
theorem test_wellFormed_destination_b : (Instr.ipo (lit 2) (lit 5)).wellFormed = false := by decide
theorem test_wellFormed_accepts : (Instr.mov (ind2 1) (num 3)).wellFormed = true := by decide

/-! ### Decoding: records written out from 30_encoding.md R112, R113, R120 -/

theorem test_decode_arithmetic :
    decode ⟨1, 0x0110, 1, 2⟩ = .instr (.add (ind 1) (ind 2)) ∧
    decode ⟨2, 0x0110, 1, 2⟩ = .instr (.sub (ind 1) (ind 2)) ∧
    decode ⟨7, 0x0110, 1, 2⟩ = .instr (.mpy (ind 1) (ind 2)) ∧
    decode ⟨8, 0x0110, 1, 2⟩ = .instr (.div (ind 1) (ind 2)) ∧
    decode ⟨9, 0x0110, 1, 2⟩ = .instr (.mod (ind 1) (ind 2)) ∧
    decode ⟨33, 0x0010, 1, 0⟩ = .instr (.inc (ind 1)) ∧
    decode ⟨34, 0x0010, 1, 0⟩ = .instr (.dec (ind 1)) ∧
    decode ⟨45, 0x0010, 1, 0⟩ = .instr (.neg (ind 1)) := by decide

theorem test_decode_bitwise_shift :
    decode ⟨3, 0x0110, 1, 2⟩ = .instr (.or (ind 1) (ind 2)) ∧
    decode ⟨4, 0x0110, 1, 2⟩ = .instr (.and (ind 1) (ind 2)) ∧
    decode ⟨5, 0x0110, 1, 2⟩ = .instr (.xor (ind 1) (ind 2)) ∧
    decode ⟨6, 0x0010, 1, 0⟩ = .instr (.not (ind 1)) ∧
    decode ⟨35, 0x0110, 1, 2⟩ = .instr (.shl (ind 1) (ind 2)) ∧
    decode ⟨36, 0x0110, 1, 2⟩ = .instr (.shr (ind 1) (ind 2)) ∧
    decode ⟨37, 0x0110, 1, 2⟩ = .instr (.rol (ind 1) (ind 2)) ∧
    decode ⟨38, 0x0110, 1, 2⟩ = .instr (.ror (ind 1) (ind 2)) ∧
    decode ⟨43, 0x0110, 1, 2⟩ = .instr (.sal (ind 1) (ind 2)) ∧
    decode ⟨44, 0x0110, 1, 2⟩ = .instr (.sar (ind 1) (ind 2)) := by decide

theorem test_decode_compare_jump :
    decode ⟨20, 0x0110, 1, 2⟩ = .instr (.cmp (ind 1) (ind 2)) ∧
    decode ⟨21, 0x0110, 1, 2⟩ = .instr (.test (ind 1) (ind 2)) ∧
    decode ⟨12, 0x0020, 3, 0⟩ = .instr (.jmp (num 3)) ∧
    decode ⟨13, 0x0020, 3, 0⟩ = .instr (.jls (num 3)) ∧
    decode ⟨14, 0x0020, 3, 0⟩ = .instr (.jgr (num 3)) ∧
    decode ⟨15, 0x0020, 3, 0⟩ = .instr (.jne (num 3)) ∧
    decode ⟨16, 0x0020, 3, 0⟩ = .instr (.jeq (num 3)) ∧
    decode ⟨39, 0x0020, 3, 0⟩ = .instr (.jz (num 3)) ∧
    decode ⟨40, 0x0020, 3, 0⟩ = .instr (.jnz (num 3)) ∧
    decode ⟨41, 0x0020, 3, 0⟩ = .instr (.jae (num 3)) ∧
    decode ⟨42, 0x0020, 3, 0⟩ = .instr (.jbe (num 3)) ∧
    decode ⟨46, 0x0010, 1, 0⟩ = .instr (.jtl (ind 1)) := by decide

theorem test_decode_subroutine_loop_stack :
    decode ⟨10, 0x0000, 0, 0⟩ = .instr .ret ∧
    decode ⟨11, 0x0020, 3, 0⟩ = .instr (.call (num 3)) ∧
    decode ⟨18, 0x0010, 1, 0⟩ = .instr (.doCx (ind 1)) ∧
    decode ⟨19, 0x0020, 3, 0⟩ = .instr (.loop (num 3)) ∧
    decode ⟨30, 0x0010, 1, 0⟩ = .instr (.push (ind 1)) ∧
    decode ⟨31, 0x0010, 1, 0⟩ = .instr (.pop (ind 1)) := by decide

theorem test_decode_move :
    decode ⟨17, 0x0110, 1, 2⟩ = .instr (.xchg (ind 1) (ind 2)) ∧
    decode ⟨22, 0x0110, 1, 2⟩ = .instr (.mov (ind 1) (ind 2)) ∧
    decode ⟨23, 0x0110, 1, 2⟩ = .instr (.loc (ind 1) (ind 2)) ∧
    decode ⟨24, 0x0110, 1, 2⟩ = .instr (.get (ind 1) (ind 2)) ∧
    decode ⟨25, 0x0110, 1, 2⟩ = .instr (.put (ind 1) (ind 2)) := by decide

theorem test_decode_system_io :
    decode ⟨0, 0x0000, 0, 0⟩ = .instr .nop ∧
    decode ⟨26, 0x0010, 1, 0⟩ = .instr (.int (ind 1)) ∧
    decode ⟨27, 0x0110, 1, 2⟩ = .instr (.ipo (ind 1) (ind 2)) ∧
    decode ⟨28, 0x0110, 1, 2⟩ = .instr (.opo (ind 1) (ind 2)) ∧
    decode ⟨29, 0x0010, 1, 0⟩ = .instr (.delay (ind 1)) ∧
    decode ⟨32, 0x0010, 1, 0⟩ = .instr (.err (ind 1)) := by decide

/-- V40-5, V40-6, V40-7. -/
theorem test_decode_label :
    decode ⟨3, 0x0002, 0, 0⟩ = .instr (.numericLabel 3 false) ∧
    decode ⟨3, 0x000A, 0, 0⟩ = .instr (.numericLabel 3 true) ∧
    decode ⟨0, 0x0004, 0, 0⟩ = .instr (.symbolicLabel 0 false) := by decide

/-- V40-25, V40-23, V40-22, V40-14. -/
theorem test_decode_operand_forms :
    decode ⟨22, 0x0080, 100, 5⟩ = .instr (.mov ⟨100, .literal, true⟩ (lit 5)) ∧
    decode ⟨22, 0x0910, 1, 100⟩ = .instr (.mov (ind 1) (ind2 100)) ∧
    decode ⟨22, 0x0410, 1, 0⟩ = .instr (.mov (ind 1) (sym 0)) ∧
    decode ⟨1, 0x0510, 1, 0⟩ = .instr (.add (ind 1) (res 0)) := by decide

/-- V40-1 to V40-4. -/
theorem test_decode_rejects :
    decode ⟨47, 0, 0, 0⟩ = .reject (.unknownOpcode 47) ∧
    decode ⟨-1, 0, 0, 0⟩ = .reject (.unknownOpcode (-1)) ∧
    decode ⟨1, 0x0003, 1, 0⟩ = .reject (.reservedOpcodeNibble 1) ∧
    decode ⟨1, 0x0006, 1, 0⟩ = .reject (.reservedOpcodeNibble 1) := by decide

/-- 30_encoding.md R120: the decoder's table and the encoder's numbers are the same map. -/
theorem test_opcode_table_matches_numbers :
    (∀ o : Fin 47, (Opcode.table[o.val]?).map Opcode.number = some o.val) ∧
    Opcode.table.length = 47 := by decide

/-- X1, X3. -/
theorem test_encode_spec_records :
    encode (.mov (ind 1) (lit 3)) = ⟨22, 0x0010, 1, 3⟩ ∧
    encode (.ipo (lit 2) (ind 1)) = ⟨27, 0x0100, 2, 1⟩ ∧
    encode (.numericLabel 1 false) = ⟨1, 0x0002, 0, 0⟩ := by decide

theorem test_table_words :
    decodeTableWord 16 46 = some (.jtl (lit 0)) ∧
    decodeTableWord 16 47 = none ∧
    decodeTableWord 8 2 = some (.numericLabel 0 false) ∧
    decodeTableWord 8 4 = some (.symbolicLabel 0 false) ∧
    (after (State.reset.withFetchWord 16 0)).outcome = some (.executed 0 .nop) ∧
    (after (State.reset.withFetchWord 8 2)).outcome = some (.skipped 0) ∧
    errorAfter (State.reset.withFetchWord 16 33) = some ⟨3, some 0⟩ := by decide

/-! ### One step of each instruction -/

/-- V41-2. -/
theorem test_add_wraps : axAfter 1 32767 1 = [-32768] := by decide

/-- V41-27. -/
theorem test_add_same_register : cellsAfter (start ⟨1, 0x0110, 1, 1⟩ [(1, 6)]) [1, 0] = [12, 0] := by decide

/-- V41-4. -/
theorem test_sub_negative : axAfter 2 3 5 = [-2] := by decide

/-- V41-5. -/
theorem test_sub_wraps : axAfter 2 (-32768) 1 = [32767] := by decide

/-- V41-7. -/
theorem test_mpy_low_word : axAfter 7 300 300 = [24464] := by decide

/-- V41-9. -/
theorem test_mpy_min : axAfter 7 (-32768) (-1) = [-32768] := by decide

/-- V41-11, V41-14. -/
theorem test_div_truncates : axAfter 8 (-7) 2 = [-3] ∧ axAfter 8 (-32768) (-1) = [-32768] := by decide

/-- X6. -/
theorem test_div_by_zero : errorAfter (start ⟨8, 0x0110, 1, 2⟩ [(1, 7)]) = some ⟨8, none⟩ ∧ axAfter 8 7 0 = [7] := by decide

/-- V41-17, V41-18. -/
theorem test_mod_sign : axAfter 9 (-7) 2 = [-1] ∧ axAfter 9 7 (-2) = [1] := by decide

/-- V41-21. -/
theorem test_mod_by_zero : errorAfter (start ⟨9, 0x0110, 1, 2⟩ [(1, 5)]) = some ⟨8, none⟩ := by decide

/-- V41-22. -/
theorem test_inc_wraps : axAfter 33 32767 0 = [-32768] := by decide

/-- V41-23. -/
theorem test_dec_wraps : axAfter 34 (-32768) 0 = [32767] := by decide

/-- V41-24, V41-25. -/
theorem test_neg : axAfter 45 5 0 = [-5] ∧ axAfter 45 (-32768) 0 = [-32768] := by decide

/-- V42-1. -/
theorem test_or : axAfter 3 3855 255 = [4095] := by decide

/-- V42-4. -/
theorem test_and : axAfter 4 (-1) 32767 = [32767] := by decide

/-- V42-3. -/
theorem test_xor : axAfter 5 3855 255 = [4080] := by decide

/-- V42-6. -/
theorem test_not : axAfter 6 5 0 = [-6] := by decide

/-- V42-9, V42-11. -/
theorem test_shl : axAfter 35 1 15 = [-32768] ∧ axAfter 35 1 (-1) = [-32768] := by decide

/-- V42-14, V42-16. -/
theorem test_shr : axAfter 36 (-1) 1 = [32767] ∧ axAfter 36 (-2) 16 = [-2] := by decide

/-- V42-18, V42-20. -/
theorem test_rol : axAfter 37 4660 4 = [9025] ∧ axAfter 37 4660 0 = [4660] := by decide

/-- V42-22, V42-23. -/
theorem test_ror : axAfter 38 4660 4 = [16675] ∧ axAfter 38 4660 20 = [16675] := by decide

/-- V42-24, V42-25. -/
theorem test_sal : axAfter 43 16384 1 = [-32768] ∧ axAfter 43 (-3) 1 = [-6] := by decide

/-- V42-27, V42-28. -/
theorem test_sar : axAfter 44 (-7) 1 = [-4] ∧ axAfter 44 (-32768) 15 = [-1] := by decide

/-- V43-6, V43-4. -/
theorem test_cmp_exact : flagsAfter 20 0 (-32768) 32767 = [2] ∧ flagsAfter 20 0 0 0 = [9] := by decide

/-- V43-9, V43-8. -/
theorem test_cmp_keeps_high_bits : flagsAfter 20 (-1) 3 5 = [-14] ∧ flagsAfter 20 240 4 4 = [241] := by decide

/-- V43-12, V43-11, V43-13. -/
theorem test_test_mask : flagsAfter 21 0 5 0 = [9] ∧ flagsAfter 21 0 4 2 = [8] ∧ flagsAfter 21 0 6 3 = [0] := by decide

/-- V43-15. -/
theorem test_test_clears : flagsAfter 21 6 6 2 = [1] := by decide

/-- the table of V43. -/
theorem test_jls_taken : takenFor 13 = [false, false, true, false, false, false] := by decide

/-- the table of V43. -/
theorem test_jgr_taken : takenFor 14 = [false, false, false, true, false, false] := by decide

/-- the table of V43. -/
theorem test_jne_taken : takenFor 15 = [true, false, true, true, true, false] := by decide

/-- the table of V43. -/
theorem test_jeq_taken : takenFor 16 = [false, true, false, false, false, true] := by decide

/-- the table of V43. -/
theorem test_jz_taken : takenFor 39 = [false, false, false, false, true, true] := by decide

/-- the table of V43. -/
theorem test_jnz_taken : takenFor 40 = [true, true, true, true, false, false] := by decide

/-- the table of V43. -/
theorem test_jae_taken : takenFor 41 = [false, true, false, true, false, true] := by decide

/-- the table of V43. -/
theorem test_jbe_taken : takenFor 42 = [false, true, true, false, false, true] := by decide

/-- V43-17, V40-38. -/
theorem test_jne_undefined_label : errorAfter (start ⟨15, 0x0020, 9, 0⟩ []) = some ⟨2, some 9⟩ ∧ (after (start ⟨15, 0x0020, 9, 0⟩ [])).micro = 1 := by decide

/-- V43-16. -/
theorem test_jeq_not_taken_no_lookup : (after (start ⟨16, 0x0020, 9, 0⟩ [])).outcome = some (.executed 0 .jeq) := by decide

/-- like V43-19, with AX = 0 and NUM[0] = 0. -/
theorem test_jmp_register_index : (after { start ⟨12, 0x0010, 1, 0⟩ [(1, 0)] with numTable := [some 0] }).ip = 0 := by decide

/-- V43-20. -/
theorem test_jmp_undefined : errorAfter (start ⟨12, 0x0020, 4, 0⟩ []) = some ⟨2, some 4⟩ := by decide

/-- V43-22, V43-23. -/
theorem test_jtl_range : errorAfter (start ⟨46, 0x0000, 2, 0⟩ []) = some ⟨2, some 2⟩ ∧ errorAfter (start ⟨46, 0x0000, -1, 0⟩ []) = some ⟨2, some (-1)⟩ := by decide

/-- like V43-24, with NUM[3] = 0. -/
theorem test_jtl_label : (after { start ⟨46, 0x0020, 3, 0⟩ [] with numTable := [none, none, none, some 0] }).ip = 0 := by decide

/-- The start of V44-1 and V44-5: the record at index 4 or 1 of twelve, SP and slot 0 set. -/
def startOfTwelve (i : Nat) (r : Record) (sp slot : Word) : State :=
  { State.reset with
    prog := (List.replicate 12 Record.nop).set i r, ip := i, numTable := [none, none, some 9],
    mem := cells [(7, sp)], stack := cells [(0, slot)], pending := [quietHost] }

/-- V44-1. -/
theorem test_call_pushes_own_index : (after (startOfTwelve 4 ⟨11, 0x0020, 2, 0⟩ 0 0)).stack = [(0, 4)] ∧
    (after (startOfTwelve 4 ⟨11, 0x0020, 2, 0⟩ 0 0)).ip = 9 ∧ cellsAfter (startOfTwelve 4 ⟨11, 0x0020, 2, 0⟩ 0 0) [7] = [1] := by decide

/-- V44-2, V44-3. -/
theorem test_call_faults : errorAfter (startOfTwelve 4 ⟨11, 0x0020, 2, 0⟩ 256 0) = some ⟨1, some 256⟩ ∧
    errorAfter (startOfTwelve 4 ⟨11, 0x0020, 0, 0⟩ 256 0) = some ⟨2, some 0⟩ := by decide

/-- V44-5, V44-6. -/
theorem test_ret_resumes : (after (startOfTwelve 1 ⟨10, 0, 0, 0⟩ 1 4)).ip = 5 ∧ (after (startOfTwelve 1 ⟨10, 0, 0, 0⟩ 1 11)).ip = 0 := by decide

/-- V44-9. -/
theorem test_ret_bad_link : errorAfter (startOfTwelve 1 ⟨10, 0, 0, 0⟩ 1 12) = some ⟨7, some 12⟩ ∧
    cellsAfter (startOfTwelve 1 ⟨10, 0, 0, 0⟩ 1 12) [7] = [0] := by decide

/-- V44-12. -/
theorem test_push_sp : (after (start ⟨30, 0x0010, 7, 0⟩ [(7, 3)])).stack = [(3, 3)] ∧ cellsAfter (start ⟨30, 0x0010, 7, 0⟩ [(7, 3)]) [7] = [4] := by decide

/-- V44-11. -/
theorem test_push_full : errorAfter (start ⟨30, 0x0010, 1, 0⟩ [(7, 256)]) = some ⟨1, some 256⟩ := by decide

/-- V44-16. -/
theorem test_pop_sp : cellsAfter { start ⟨31, 0x0010, 7, 0⟩ [(7, 1)] with stack := [(0, 40)] } [7] = [40] := by decide

/-- V44-15. -/
theorem test_pop_range : errorAfter (start ⟨31, 0x0010, 2, 0⟩ [(7, 257)]) = some ⟨5, some 257⟩ := by decide

/-- V44-18. -/
theorem test_do : cellsAfter (start ⟨18, 0x0000, 5, 0⟩ []) [3] = [5] := by decide

/-- like V44-22, with label 0. -/
theorem test_loop_wraps : cellsAfter (start ⟨19, 0x0020, 0, 0⟩ [(3, -32768)]) [3] = [32767] ∧
    (after (start ⟨19, 0x0020, 0, 0⟩ [(3, -32768)])).ip = 0 := by decide

/-- like V44-23, with label 2. -/
theorem test_loop_keeps_cx : errorAfter (start ⟨19, 0x0020, 2, 0⟩ [(3, 2)]) = some ⟨2, some 2⟩ ∧ cellsAfter (start ⟨19, 0x0020, 2, 0⟩ [(3, 2)]) [3] = [1] := by decide

/-- V40-26, V40-23. -/
theorem test_mov_two_levels : cellsAfter (start ⟨22, 0x0090, 100, 5⟩ [(100, 400)]) [400] = [5] ∧
    cellsAfter (start ⟨22, 0x0910, 1, 100⟩ [(100, 300), (300, 7)]) [1] = [7] := by decide

/-- V40-27, V40-28. -/
theorem test_mov_shunt : cellsAfter (startWith { quietHost with shunt := [some 9] } ⟨22, 0x0110, 1, 600⟩ [(600, 4)]) [1, 600] = [9, 4] ∧
    cellsAfter (start ⟨22, 0x0110, 1, 600⟩ [(600, 4)]) [1] = [4] := by decide

/-- V45-3. -/
theorem test_xchg : cellsAfter (start ⟨17, 0x0110, 1, 2⟩ [(1, 1), (2, 2)]) [1, 2] = [2, 1] := by decide

/-- V45-6. -/
theorem test_xchg_read_only : errorAfter (start ⟨17, 0x0110, 1, 1024⟩ []) = some ⟨3, some 1024⟩ := by decide

/-- V45-9. -/
theorem test_loc_level_two : cellsAfter (start ⟨23, 0x0910, 1, 2⟩ [(2, 700)]) [1] = [700] := by decide

/-- V45-11, V45-10. -/
theorem test_loc_no_read : cellsAfter (start ⟨23, 0x0110, 1, 5000⟩ []) [1] = [5000] ∧ cellsAfter (start ⟨23, 0x0010, 1, 7⟩ []) [1] = [7] := by decide

/-- V45-14. -/
theorem test_get_own_opcode : cellsAfter (start ⟨24, 0x0010, 1, 1024⟩ []) [1] = [24] := by decide

/-- V45-16. -/
theorem test_get_unmapped : errorAfter (start ⟨24, 0x0010, 1, -1⟩ []) = some ⟨4, some (-1)⟩ := by decide

/-- V45-21. -/
theorem test_put_register : cellsAfter (start ⟨25, 0x0000, 3, 7⟩ []) [7] = [3] := by decide

/-- V45-19, V45-20. -/
theorem test_put_faults : errorAfter (start ⟨25, 0x0000, 1, 1024⟩ []) = some ⟨3, some 1024⟩ ∧
    errorAfter (start ⟨25, 0x0000, 1, 30000⟩ []) = some ⟨4, some 30000⟩ := by decide

/-- V46-1. -/
theorem test_nop : (after (start ⟨0, 0, 0, 0⟩ [])).penalty = 1 ∧ (after (start ⟨0, 0, 0, 0⟩ [])).ip = 1 := by decide

/-- V40-31, V40-33. -/
theorem test_delay : (after (start ⟨29, 0x0000, 7, 0⟩ [])).penalty = 7 ∧ (after (start ⟨29, 0x0000, -3, 0⟩ [])).penalty = 1 := by decide

/-- 40_execution_cycle.md R164, 41_arithmetic.md R200, 46_system_io.md R361: a record index above 32767 is an exact value, wrapped only by ADD. -/
theorem test_wide_label_value : (after { start ⟨29, 0x0020, 0, 0⟩ [] with numTable := [some 40000] }).penalty = 40000 ∧
    axAfterLabel 40000 = [-25536] := by decide

/-- 00_scope.md R6, 40_execution_cycle.md R174, R175. -/
theorem test_cost_tables : penaltyOf { defaultParams with argCost := [((.ipo, 17), 3), ((.opo, 17), 4)], opcodeCost := [(.ipo, 2)] } .ipo (some 17) = 3 ∧
    penaltyOf { defaultParams with argCost := [((.ipo, 17), 3), ((.opo, 17), 4)], opcodeCost := [(.ipo, 2)] } .opo (some 17) = 4 ∧
    penaltyOf { defaultParams with argCost := [((.ipo, 17), 3), ((.opo, 17), 4)], opcodeCost := [(.ipo, 2)] } .ipo (some 18) = 2 ∧
    penaltyOf { defaultParams with argCost := [((.ipo, 17), 3), ((.opo, 17), 4)], opcodeCost := [(.ipo, 2)] } .ipo none = 1 := by decide

/-- V46-5, V46-4. -/
theorem test_err : errorAfter (start ⟨32, 0x0000, -3, 0⟩ []) = some ⟨-3, none⟩ ∧ errorAfter (start ⟨32, 0x0000, 0, 0⟩ []) = some ⟨0, none⟩ := by decide

/-- V46-10. -/
theorem test_int_writes_in_order : cellsAfter (startWith { quietHost with interrupt := .ok [(5, 10), (6, 20), (5, 11)] } ⟨26, 0x0000, 2, 0⟩ []) [5, 6] = [11, 20] := by decide

/-- V46-8. -/
theorem test_int_soft_reset : (after { start ⟨26, 0x0000, 1, 0⟩ [(100, 5), (7, 2)] with stack := [(0, 7)] }).mem = [] ∧
    (after { start ⟨26, 0x0000, 1, 0⟩ [(100, 5), (7, 2)] with stack := [(0, 7)] }).stack = [] ∧
    (after { start ⟨26, 0x0000, 1, 0⟩ [(100, 5), (7, 2)] with stack := [(0, 7)] }).ip = 0 := by decide

/-- V46-16. -/
theorem test_ipo_reads : cellsAfter (startWith { quietHost with portIn := .ok (-5) } ⟨27, 0x0100, 17, 1⟩ []) [1] = [-5] := by decide

/-- V46-14, V46-13. -/
theorem test_ipo_faults : errorAfter (start ⟨27, 0x0100, 11, 1⟩ []) = some ⟨17, some 11⟩ ∧ errorAfter (start ⟨27, 0x0100, 25, 1⟩ []) = some ⟨11, some 25⟩ := by decide

/-- V46-20. -/
theorem test_opo_calls_host : (after (start ⟨28, 0x0000, 11, 100⟩ [])).calls = [.disabled, .shadow, .portOut 11 100] := by decide

/-- V46-19, V46-21. -/
theorem test_opo_faults : errorAfter (start ⟨28, 0x0000, 7, 1⟩ []) = some ⟨16, some 7⟩ ∧
    errorAfter (startWith { quietHost with portOut := .err .noMinesLeft } ⟨28, 0x0000, 22, 1⟩ []) = some ⟨14, some 22⟩ := by decide

/-- V40-37, V40-7. -/
theorem test_label_skips : (after { start ⟨3, 0x0002, 0, 0⟩ [] with micro := 5 }).micro = 5 ∧ (after (start ⟨0, 0x0004, 0, 0⟩ [])).outcome = some (.skipped 0) := by decide

/-- V40-10, V40-12. -/
theorem test_opcode_from_memory : errorAfter (start ⟨100, 0x0009, 0, 0⟩ [(100, 200), (200, 33)]) = some ⟨3, some 0⟩ ∧
    (after (start ⟨1029, 0x0001, 0, 0⟩ [])).outcome = some (.executed 0 .nop) := by decide

/-- V60-1, V60-2. -/
theorem test_fault_priority : errorAfter (start ⟨22, 0x0100, 5, -1⟩ []) = some ⟨3, some 5⟩ ∧ errorAfter (start ⟨1, 0x0110, -1, -2⟩ []) = some ⟨4, some (-1)⟩ := by decide

/-- V40-35. -/
theorem test_twentieth_free_instruction : (after { start ⟨16, 0x0020, 0, 0⟩ [] with micro := 19 }).penalty = 1 ∧ (after { start ⟨16, 0x0020, 0, 0⟩ [] with micro := 18 }).micro = 19 := by decide

/-- 40_execution_cycle.md R154. -/
theorem test_shadow_refresh : cellsAfter (startWith { quietHost with shadow := ⟨1, 2, 3, 4, 5, 6⟩ } ⟨0, 0, 0, 0⟩ [(8, 9)]) [8, 9, 10, 11, 12, 13] = [1, 2, 3, 4, 5, 6] := by decide

/-- V70-2. -/
theorem test_wrapper_reset_keeps_memory : ({ start ⟨0, 0, 0, 0⟩ [(100, 5), (7, 3)] with ip := 1, penalty := 2, micro := 7 }.wrapperReset false).cell 100 = 5 := by decide

/-! ### Witnesses: for every statement with hypotheses, states and operands that meet them, clause by clause -/

/-- A state as an instruction meets it after its fetch at index 0 of two records (`ROM_END` = 1032): AX = 3, BX = 4,
CX = 2, FLAGS = 1, SP = 1, cells 100 to 103 hold the addresses 600, -1, 1024 and 1032, slot 0 holds 0; `:1` is record 1, `:2`
undefined; `!0` is record 1, `!1` undefined. -/
def mid : State :=
  { State.reset with
    prog := [⟨5, 6, 7, 8⟩, Record.nop], ip := 1, numTable := [some 0, some 1, none], alnumTable := [some 1, none]
    mem := cells [(0, 1), (1, 3), (2, 4), (3, 2), (7, 1), (100, 600), (101, -1), (102, 1024), (103, 1032)] }

/-- The same with the next step's answers given, before the fetch of a record. -/
def idle : State := { mid with ip := 0, pending := [quietHost] }

theorem mid_inv : mid.Inv :=
  ⟨by decide, by decide, by decide, by decide, by decide, by decide⟩

theorem mid_ax : IsReadDestination (ind 1) mid 1 3 mid := ⟨by decide, by decide⟩
theorem mid_bx : ReadsValue (ind 2) mid 4 mid := ⟨some 2, by decide⟩
theorem mid_zero : ReadsValue (lit 0) mid 0 mid := ⟨none, by decide⟩
theorem mid_label : ReadsLabel (num 1) mid 1 mid := ⟨none, by decide⟩
theorem mid_dest : IsDestination (ind 1) mid 1 mid := ⟨by decide, by decide⟩

/-! #### Encoding -/

theorem test_witness_DescriptorsInverseOfWords : (⟨1, 0x0FFF, 2, 3⟩ : Record).w1.extractLsb' 12 4 = 0 := by decide
theorem test_witness_UpperModifierBitsIgnored : (⟨1, 0x1000, 2, 3⟩ : Record).w1.extractLsb' 12 4 ≠ 0 := by decide

theorem test_witness_OpcodeFieldKinds :
    ((0x000A : Word).extractLsb' 0 3).toNat = 2 ∧ ((0x000C : Word).extractLsb' 0 3).toNat = 4 ∧
    ([(0x0003 : Word), 0x0005, 0x0006, 0x0007, 0x000F].all fun n => (n.extractLsb' 0 3).toNat ∈ [3, 5, 6, 7]) ∧
    ([(0x0001 : Word), 0x0008, 0x0009].all fun n => (n.extractLsb' 0 4).toNat ∈ [1, 8, 9]) ∧
    ((0xFFF0 : Word).extractLsb' 0 4).toNat = 0 ∧ 46 < (47 : Word).toNat ∧ (46 : Word).toNat ≤ 46 := by decide

/-! #### The step -/

theorem test_witness_StepRunsDecodedInstruction :
    idle.beginStep.now.disabled = false ∧ idle.penalty = 0 ∧ { idle with ip := 1 }.prog[1]? = some Record.nop ∧
    decode Record.nop = .instr .nop := by decide

/-- Opcode field at level 1 (cell 1 holds 3, OR) and at level 2 (cell 104 holds the address 1). -/
theorem test_witness_StepRunsOpcodeFromMemory :
    (start ⟨1, 0x0001, 0, 0⟩ [(1, 3)]).beginStep.now.disabled = false ∧
    decode ⟨1, 0x0001, 0, 0⟩ = .opcodeInMemory (ind 1) (lit 0) (lit 0) ∧ (3 : Word).toInt = Opcode.or.number ∧
    memRead 1 (start ⟨1, 0x0001, 0, 0⟩ [(1, 3)]).beginStep.fetched
      = .ok 3 (start ⟨1, 0x0001, 0, 0⟩ [(1, 3)]).beginStep.fetched ∧
    decode ⟨104, 0x0009, 0, 0⟩ = .opcodeInMemory (ind2 104) (lit 0) (lit 0) ∧
    memRead 104 (start ⟨104, 0x0009, 0, 0⟩ [(104, 1), (1, 3)]).beginStep.fetched
      = .ok 1 (start ⟨104, 0x0009, 0, 0⟩ [(104, 1), (1, 3)]).beginStep.fetched ∧
    memRead 1 (start ⟨104, 0x0009, 0, 0⟩ [(104, 1), (1, 3)]).beginStep.fetched
      = .ok 3 (start ⟨104, 0x0009, 0, 0⟩ [(104, 1), (1, 3)]).beginStep.fetched := by decide

theorem test_witness_OpcodeFieldFaults :
    (start ⟨1, 0x0003, 0, 0⟩ []).beginStep.now.disabled = false ∧ (start ⟨1, 0x0003, 0, 0⟩ []).penalty = 0 ∧
    (start ⟨1, 0x0003, 0, 0⟩ []).prog[0]? = some ⟨1, 0x0003, 0, 0⟩ ∧
    decode ⟨1, 0x0003, 0, 0⟩ = .reject (.reservedOpcodeNibble 1) ∧ decode ⟨47, 0, 0, 0⟩ = .reject (.unknownOpcode 47) ∧
    decode ⟨-5, 0x0001, 0, 0⟩ = .opcodeInMemory (ind (-5)) (lit 0) (lit 0) ∧
    resolveOpcode (ind (-5)) (start ⟨-5, 0x0001, 0, 0⟩ []).beginStep.fetched
      = .raise ⟨4, some (-5)⟩ (start ⟨-5, 0x0001, 0, 0⟩ []).beginStep.fetched ∧
    resolveOpcode (ind 100) (start ⟨100, 0x0001, 0, 0⟩ [(100, 47)]).beginStep.fetched
      = .ok 47 (start ⟨100, 0x0001, 0, 0⟩ [(100, 47)]).beginStep.fetched ∧ (46 : Int) < 47 := by decide

theorem test_witness_StoppedAndIdleSteps :
    (startWith { quietHost with disabled := true } Record.nop []).beginStep.now.disabled = true ∧
    { idle with penalty := 1 }.beginStep.now.disabled = false ∧ 0 < { idle with penalty := 1 }.penalty := by decide

theorem test_witness_CommitChargesAndCounts :
    { mid with micro := 18 }.micro + 1 < 20 ∧ 20 ≤ { mid with micro := 19 }.micro + 1 ∧ (1 : Nat) ≠ 0 := by decide

theorem test_witness_DefaultCosts :
    defaultParams.opcodeCost = [] ∧ defaultParams.argCost = [] ∧
    Opcode.jls ∈ [Opcode.jls, .jgr, .jne, .jeq, .jz, .jnz, .jae, .jbe] ∧
    Opcode.nop ∉ [Opcode.jls, .jgr, .jne, .jeq, .jz, .jnz, .jae, .jbe, .delay] ∧
    Opcode.int ∈ [Opcode.delay, .int, .ipo, .opo] := by decide

theorem test_witness_OwedCyclesAreIdle :
    { idle with penalty := 2, pending := [quietHost, quietHost] }.penalty = 2 ∧
    2 ≤ { idle with penalty := 2, pending := [quietHost, quietHost] }.pending.length ∧
    ∀ h ∈ { idle with penalty := 2, pending := [quietHost, quietHost] }.pending.take 2, h.disabled = false := by decide

/-- Also for `HostCallOrder`. -/
theorem test_witness_LaunchConstantsNeverChange : ∃ t, step idle = .next t := ⟨_, rfl⟩

theorem test_witness_StepKeepsInvariant : idle.Inv ∧ ∃ t, step idle = .next t :=
  ⟨⟨by decide, by decide, by decide, by decide, by decide, by decide⟩, _, rfl⟩

/-- Also for `TurnAlwaysEnds`. -/
theorem test_witness_StepHasNextState : idle.Inv := test_witness_StepKeepsInvariant.1

/-! #### Memory and operands -/

theorem test_witness_ReadAfterWrite :
    (∀ a ∈ [(0 : Int), 511, 512, 767, 768, 1023], ∃ t, memWrite a 9 mid = .ok () t ∧ t.now.shunt.head?.join = none) ∧
    memRead 2 mid = .ok 4 mid ∧ memRead (-1) mid = .raise ⟨4, some (-1)⟩ mid := by
  refine ⟨?_, by decide, by decide⟩
  intro a ha; fin_cases ha <;> exact ⟨_, rfl, rfl⟩

theorem test_witness_MemReadByRegion :
    1024 + 4 * (mid.prog.length : Int) = 1032 ∧
    ([(0 : Int), 511].all fun a => 0 ≤ a ∧ a < 512) ∧ ([(768 : Int), 1023].all fun a => 768 ≤ a ∧ a < 1024) ∧
    ([(512 : Int), 767].all fun a => 512 ≤ a ∧ a < 768) ∧
    ((1024 : Int) = 1024 + 4 * ((0 : Nat) : Int) + (0 : Nat) ∧ mid.prog[0]? = some ⟨5, 6, 7, 8⟩) ∧
    ((1031 : Int) = 1024 + 4 * ((1 : Nat) : Int) + (3 : Nat) ∧ mid.prog[1]? = some Record.nop) := by decide

/-- The mirror is readable up to word 3 of record 7935, address 32767, and no further (20_memory.md R75), in a
program of 9000 records. -/
theorem test_mirror_highest (prog : List Record) (h : prog.length = 9000) (hr : prog[7935]? = some ⟨5, 6, 7, 8⟩) :
    memRead 32767 { mid with prog := prog } = .ok 8 { mid with prog := prog } ∧
    memRead 32768 { mid with prog := prog } = .raise ⟨4, some 32768⟩ { mid with prog := prog } := by
  obtain ⟨_, hw⟩ := List.getElem?_eq_some_iff.mp hr
  constructor <;> simp [memRead, region, romBase, maxAddress, mirrorWord, h, hw, Record.word, ErrorKind.error, ErrorKind.code]

theorem test_witness_MemReadByRegion_highest :
    (32767 : Int) = 1024 + 4 * ((7935 : Nat) : Int) + (3 : Nat) ∧
    (List.replicate 9000 Record.nop).length = 9000 ∧ (List.replicate 9000 Record.nop)[7935]? = some Record.nop :=
  ⟨by decide, List.length_replicate, by rw [List.getElem?_replicate, if_pos (by decide)]⟩

theorem test_witness_MemWriteByRegion :
    1024 + 4 * (mid.prog.length : Int) = 1032 ∧
    ([(1024 : Int), 1031].all fun a => 1024 ≤ a ∧ a < 1024 + 4 * (mid.prog.length : Int)) ∧
    ([(0 : Int), 1023].all fun a => 0 ≤ a ∧ a < 1024) := by decide

/-- For usage `jump` also with a flag; the pointer of cell 101 is -1. -/
theorem test_witness_ReadOperandLevels :
    (res 7).isReserved = true ∧ Usage.r ≠ Usage.none ∧
    ([lit 5, ind 1, ind2 100].all fun d => d.isReserved = false ∧ d.jumpKind = .none) ∧
    ([num 5, ⟨1, .numericJump, true⟩, sym 0].all fun d => d.isReserved = false ∧ d.jumpKind ≠ .none) ∧
    ((lit 5).level = 0 ∧ (num 5).level = 0 ∧ (⟨1, .numericJump, true⟩ : Operand).level = 1 ∧ (ind 1).level = 1 ∧
      (⟨1, .literal, true⟩ : Operand).level = 1 ∧ (ind2 1).level = 2) ∧
    memRead 1 mid = .ok 3 mid ∧ memRead (-1) mid = .raise ⟨4, some (-1)⟩ mid ∧ memRead 3 mid = .ok 2 mid ∧
    memRead 2 mid = .ok 4 mid ∧ memRead 101 mid = .ok (-1) mid := by decide

/-- The clauses: no flag; a numeric label defined (1), undefined (2) and outside the table (-1, 3); a symbolic one. -/
theorem test_witness_LabelOperandReadsRecordIndex :
    ([(1 : Word), 2, -1, 3].all fun n => ∀ d ∈ [lit n, num n, sym n], resolve d .jump mid = .ok ⟨none, some n.toInt⟩ mid) ∧
    mid.numTable[1]? = some (some 1) ∧ (mid.numTable[2]?).join = none ∧ (mid.numTable[3]?).join = none ∧
    mid.alnumTable[0]? = some (some 1) ∧ (mid.alnumTable[1]?).join = none ∧
    resolve (sym 0) .jump mid = .ok ⟨none, some 0⟩ mid := by decide

/-- Level 1 at the ends of the regions; level 2 through cells 100 (600), 102 (1024), 103 (1032) and the unmapped 5000. -/
theorem test_witness_DestinationLevels :
    ([(0 : Word), 1023, 1024, 1031, 1032, -1].all fun a =>
      (ind a).isReserved = false ∧ (ind a).level = 1 ∧ (ind a).jumpKind = .none) ∧
    ([(100 : Word), 102, 103, 5000].all fun a => (ind2 a).isReserved = false ∧ (ind2 a).level = 2) ∧
    memRead 100 mid = .ok 600 mid ∧ memRead 102 mid = .ok 1024 mid ∧ memRead 103 mid = .ok 1032 mid ∧
    memRead 5000 mid = .raise ⟨4, some 5000⟩ mid ∧ memRead 0 mid = .ok 1 mid ∧ memRead 1023 mid = .ok 0 mid ∧
    1024 + 4 * (mid.prog.length : Int) = 1032 := by decide

/-- No flag at each level; numeric and symbolic labels defined and undefined, at level 0 and through AX = 3 and BX = 4. -/
theorem test_witness_EffectiveAddressLevels :
    ([lit 7, ind 5000, ind2 100, ind2 5000].all fun d => d.isReserved = false ∧ d.jumpKind = .none) ∧
    ([num 1, num 2, num (-1), ⟨1, .numericJump, true⟩].all fun d => d.isReserved = false ∧ d.jumpKind = .numeric ∧ d.level ≤ 1) ∧
    ([sym 0, sym 1, sym (-1)].all fun d => d.isReserved = false ∧ d.jumpKind = .symbolic ∧ d.level ≤ 1) ∧
    (lit 7).level = 0 ∧ (ind 5000).level = 1 ∧ (ind2 100).level = 2 ∧ memRead 100 mid = .ok 600 mid ∧
    memRead 5000 mid = .raise ⟨4, some 5000⟩ mid ∧ mid.numTable[1]? = some (some 1) ∧ (mid.numTable[2]?).join = none ∧
    mid.alnumTable[0]? = some (some 1) ∧ (mid.alnumTable[1]?).join = none := by decide

/-- `ADD`'s A at -1 faults; its B at a reserved field faults after A = AX resolved to 3. -/
theorem test_witness_OperandFaultsEndTheInstruction :
    useA .add = .rw ∧ useB .add = .r ∧ ((ind (-1)).level ≠ 0 ∧ (ind (-1)).jumpKind = .none) ∧
    ((ind 1).level ≠ 0 ∧ (ind 1).jumpKind = .none) ∧ resolve (ind (-1)) .rw mid = .raise ⟨4, some (-1)⟩ mid ∧
    resolve (ind 1) .rw mid = .ok ⟨some 1, some 3⟩ mid ∧ resolve (res 9) .r mid = .raise ⟨6, some 9⟩ mid := by decide

theorem test_witness_NonIndirectDestinationFaults :
    (lit 5).level = 0 ∧ (num 3).jumpKind ≠ .none ∧ storesOnlyA (.mov (lit 5) (ind 1)) = some (lit 5) ∧
    ((ind 1).level ≠ 0 ∧ (ind 1).jumpKind = .none) := by decide

/-! #### Results -/

/-- Also for `OrAndXorResults` and `ShiftRotateResults`. -/
theorem test_witness_AddSubMpyResults : IsReadDestination (ind 1) mid 1 3 mid ∧ ReadsValue (ind 2) mid 4 mid := ⟨mid_ax, mid_bx⟩

theorem test_witness_DivModResults :
    (IsReadDestination (ind 1) mid 1 3 mid ∧ ReadsValue (ind 2) mid 4 mid ∧ (4 : Word) ≠ 0) ∧
    (IsReadDestination (ind 1) mid 1 3 mid ∧ ReadsValue (lit 0) mid 0 mid) := ⟨⟨mid_ax, mid_bx, by decide⟩, mid_ax, mid_zero⟩

theorem test_witness_UnaryResults : IsReadDestination (ind 1) mid 1 3 mid := mid_ax

/-- Also for `TestSetsFlags`. -/
theorem test_witness_CmpSetsFlags : ReadsValue (lit 0) mid 0 mid ∧ ReadsValue (ind 2) mid 4 mid := ⟨mid_zero, mid_bx⟩

/-- FLAGS = 1: JEQ is taken and JLS is not; a numeric and a symbolic target, each defined and undefined. -/
theorem test_witness_ConditionalJumps :
    (mid.cell 0).getLsbD 0 = true ∧ ¬ (mid.cell 0).getLsbD 1 = true ∧
    (ReadsLabel (num 1) mid 1 mid ∧ (num 1).jumpKind ≠ .symbolic ∧ lookupLabel mid.numTable 1 = some 1) ∧
    (ReadsLabel (num 2) mid 2 mid ∧ lookupLabel mid.numTable 2 = none) ∧
    (ReadsLabel (sym 0) mid 0 mid ∧ (sym 0).jumpKind = .symbolic ∧ lookupLabel mid.alnumTable 0 = some 1) ∧
    (ReadsLabel (sym 1) mid 1 mid ∧ lookupLabel mid.alnumTable 1 = none) :=
  ⟨by decide, by decide, ⟨mid_label, by decide, by decide⟩, ⟨⟨none, by decide⟩, by decide⟩,
    ⟨⟨none, by decide⟩, by decide, by decide⟩, ⟨none, by decide⟩, by decide⟩

theorem test_witness_JmpJtlResults :
    (ReadsLabel (num 1) mid 1 mid ∧ (num 1).jumpKind = .numeric ∧ lookupLabel mid.numTable 1 = some 1 ∧ 1 < mid.prog.length) ∧
    (ReadsLabel (sym 0) mid 0 mid ∧ (sym 0).jumpKind = .symbolic ∧ lookupLabel mid.alnumTable 0 = some 1) ∧
    (ReadsLabel (num 2) mid 2 mid ∧ lookupLabel mid.numTable 2 = none) ∧
    (ReadsLabel (sym 1) mid 1 mid ∧ lookupLabel mid.alnumTable 1 = none) ∧
    (ReadsValue (lit 0) mid 0 mid ∧ (1 : Int) < mid.prog.length) ∧
    (ReadsValue (lit 2) mid 2 mid ∧ (mid.prog.length : Int) ≤ 2) ∧ ReadsValue (lit (-1)) mid (-1) mid :=
  ⟨⟨mid_label, by decide, by decide, by decide⟩, ⟨⟨none, by decide⟩, by decide, by decide⟩, ⟨⟨none, by decide⟩, by decide⟩,
    ⟨⟨none, by decide⟩, by decide⟩, ⟨mid_zero, by decide⟩, ⟨⟨none, by decide⟩, by decide⟩, none, by decide⟩

theorem test_witness_CallResult :
    ReadsLabel (num 1) mid 1 mid ∧ (num 1).jumpKind ≠ .symbolic ∧ lookupLabel mid.numTable 1 = some 1 ∧
    lookupLabel mid.numTable 2 = none ∧
    ([(0 : Word), 255].all fun sp => 0 ≤ ((mid.setCell 7 sp).cell 7).toInt ∧ ((mid.setCell 7 sp).cell 7).toInt < mid.params.stackSize) ∧
    ((mid.setCell 7 (-1)).cell 7).toInt < 0 ∧ (mid.params.stackSize : Int) ≤ ((mid.setCell 7 256).cell 7).toInt :=
  ⟨mid_label, by decide, by decide, by decide, by decide, by decide, by decide⟩

theorem test_witness_RetResult :
    ((mid.setCell 7 0).cell 7).toInt ≤ 0 ∧ (mid.params.stackSize : Int) < ((mid.setCell 7 257).cell 7).toInt ∧
    ([(1 : Word), 256].all fun sp => 0 < ((mid.setCell 7 sp).cell 7).toInt ∧ ((mid.setCell 7 sp).cell 7).toInt ≤ mid.params.stackSize) ∧
    mid.stack.get ((mid.cell 7).toNat - 1) = 0 ∧ mid.prog.length = 2 ∧
    { mid with stack := cells [(0, 2)] }.stack.get 0 = 2 ∧ { mid with stack := cells [(0, -1)] }.stack.get 0 = -1 ∧ mid.params.retLink = .selfIndex ∧
    { mid.params with retLink := .nextIndex }.retLink = .nextIndex := by decide

theorem test_witness_PushPopResults :
    ReadsValue (ind 2) mid 4 mid ∧ IsDestination (ind 1) mid 1 mid ∧ 0 ≤ (mid.cell 7).toInt ∧ 0 < (mid.cell 7).toInt ∧
    (mid.cell 7).toInt < mid.params.stackSize ∧
    (IsDestination (ind 1) (mid.setCell 7 0) 1 (mid.setCell 7 0) ∧ ((mid.setCell 7 0).cell 7).toInt ≤ 0) ∧
    (ReadsValue (ind 2) (mid.setCell 7 256) 4 (mid.setCell 7 256) ∧
      (mid.params.stackSize : Int) ≤ ((mid.setCell 7 256).cell 7).toInt) :=
  ⟨mid_bx, mid_dest, by decide, by decide, by decide, ⟨⟨by decide, by decide⟩, by decide⟩, ⟨some 2, by decide⟩, by decide⟩

theorem test_witness_RetReturnsAfterCall :
    ∃ t, exec (.call (num 1)) mid = .next t ∧ t.outcome = some (.executed mid.prevIp .call) ∧
      mid.prevIp < mid.prog.length ∧ mid.ip = (mid.prevIp + 1) % mid.prog.length ∧ mid.prog.length ≤ 32768 ∧
      (mid.cell 7).toInt < 32767 :=
  ⟨_, rfl, by decide, by decide, by decide, by decide, by decide⟩

/-- CX = 2 goes on and CX = 1 falls through; both tables; the target defined and undefined. -/
theorem test_witness_DoLoopResults :
    ReadsValue (ind 2) mid 4 mid ∧ ReadsLabel (num 1) mid 1 mid ∧ (num 1).jumpKind ≠ .symbolic ∧
    0 < (wrap16 ((mid.cell 3).toInt - 1)).toInt ∧ lookupLabel mid.numTable 1 = some 1 ∧ lookupLabel mid.numTable 2 = none ∧
    (ReadsLabel (sym 0) (mid.setCell 3 1) 0 (mid.setCell 3 1) ∧ (sym 0).jumpKind = .symbolic ∧
      (wrap16 (((mid.setCell 3 1).cell 3).toInt - 1)).toInt ≤ 0) :=
  ⟨mid_bx, mid_label, by decide, by decide, by decide, by decide, ⟨none, by decide⟩, by decide, by decide⟩

theorem test_witness_MovXchgLocResults :
    (IsDestination (ind 1) mid 1 mid ∧ ReadsValue (ind 2) mid 4 mid) ∧
    (IsReadDestination (ind 1) mid 1 3 mid ∧ IsReadDestination (ind 2) mid 2 4 mid) ∧
    (IsDestination (ind 1) mid 1 mid ∧ HasEffectiveAddress (ind2 100) mid 600 mid) :=
  ⟨⟨mid_dest, mid_bx⟩, ⟨mid_ax, by decide, by decide⟩, mid_dest, by unfold HasEffectiveAddress; decide⟩

theorem test_witness_GetPutResults :
    (IsDestination (ind 1) mid 1 mid ∧ ReadsValue (ind 2) mid 4 mid ∧ memRead 4 mid = .ok 0 mid) ∧
    (ReadsValue (lit (-1)) mid (-1) mid ∧ memRead (-1) mid = .raise ⟨4, some (-1)⟩ mid) ∧
    (∀ b ∈ [(0 : Word), 1023, 1024, 1031, 1032, -1], ReadsValue (lit b) mid b.toInt mid) ∧
    1024 + 4 * (mid.prog.length : Int) = 1032 := by
  refine ⟨⟨mid_dest, mid_bx, by decide⟩, ⟨⟨none, by decide⟩, by decide⟩, ?_, by decide⟩
  intro b hb; fin_cases hb <;> exact ⟨none, rfl⟩

theorem test_witness_NopDelayErrResults :
    ReadsValue (lit 0) mid 0 mid ∧ ReadsValue (ind 2) mid 4 mid ∧ mid.params.argCost = [] ∧ mid.params.opcodeCost = [] :=
  ⟨mid_zero, mid_bx, by decide, by decide⟩

theorem test_witness_IntResults :
    (ReadsValue (lit 20) mid 20 mid ∧ 20 ∉ mid.params.intTable) ∧
    (ReadsValue (lit 1) mid 1 mid ∧ 1 ∈ mid.params.intTable ∧ 1 = mid.params.softResetInt) ∧
    (ReadsValue (lit 19) mid 19 mid ∧ 19 ∈ mid.params.intTable ∧ 19 ≠ mid.params.softResetInt ∧
      mid.now.interrupt = .ok []) ∧
    ReadsValue (lit 19) { mid with now := { quietHost with interrupt := .err .queueEmpty } } 19
      { mid with now := { quietHost with interrupt := .err .queueEmpty } } :=
  ⟨⟨⟨none, by decide⟩, by decide⟩, ⟨⟨none, by decide⟩, by decide, by decide⟩,
    ⟨⟨none, by decide⟩, by decide, by decide, by decide⟩, none, by decide⟩

theorem test_witness_IpoResults :
    (∀ p ∈ [(0 : Word), 25, 11, 1, 24], ReadsValue (lit p) mid p.toInt mid) ∧ IsDestination (ind 1) mid 1 mid ∧
    portDir mid.params.portTable 0 = none ∧ portDir mid.params.portTable 25 = none ∧
    portDir mid.params.portTable 11 = some .output ∧ portDir mid.params.portTable 1 = some .input ∧
    portDir mid.params.portTable 24 = some .both ∧ mid.now.portIn = .ok 0 ∧
    { quietHost with portIn := .err .noShield }.portIn = .err .noShield := by
  refine ⟨?_, mid_dest, by decide, by decide, by decide, by decide, by decide, by decide, by decide⟩
  intro p hp; fin_cases hp <;> exact ⟨none, rfl⟩

theorem test_witness_OpoResults :
    (∀ p ∈ [(0 : Word), 25, 10, 11, 24], ReadsValue (lit p) mid p.toInt mid) ∧ ReadsValue (ind 2) mid 4 mid ∧
    portDir mid.params.portTable 25 = none ∧ portDir mid.params.portTable 10 = some .input ∧
    portDir mid.params.portTable 11 = some .output ∧ portDir mid.params.portTable 24 = some .both ∧
    mid.now.portOut = .ok () ∧ { quietHost with portOut := .err .noMinesLeft }.portOut = .err .noMinesLeft := by
  refine ⟨?_, mid_bx, by decide, by decide, by decide, by decide, by decide, by decide⟩
  intro p hp; fin_cases hp <;> exact ⟨none, rfl⟩

/-! #### Frames and whole-machine rules -/

theorem test_witness_FrameOfStoresToA :
    (∃ t, storesOnlyA (.add (ind 1) (ind 2)) = some (ind 1) ∧ exec (.add (ind 1) (ind 2)) mid = .next t) ∧
    destinationCell (ind 1) mid = some 1 ∧ destinationCell (lit 5) mid = none := ⟨⟨_, rfl, rfl⟩, by decide, by decide⟩

theorem test_witness_FrameOfStoringNothing :
    ∃ t, storesNothing (.jeq (num 1)) = true ∧ exec (.jeq (num 1)) mid = .next t := ⟨_, rfl, rfl⟩

theorem test_witness_FrameOfCompareAndLoop :
    (∃ t, exec (.cmp (ind 1) (ind 2)) mid = .next t) ∧ (∃ t, exec (.test (ind 1) (ind 2)) mid = .next t) ∧
    (∃ t, exec (.doCx (ind 1)) mid = .next t) ∧ ∃ t, exec (.loop (num 1)) mid = .next t :=
  ⟨⟨_, rfl⟩, ⟨_, rfl⟩, ⟨_, rfl⟩, _, rfl⟩

theorem test_witness_FrameOfStackInstructions :
    (∃ t, exec (.call (num 1)) mid = .next t) ∧ (∃ t, exec (.push (ind 1)) mid = .next t) ∧
    (∃ t, exec .ret mid = .next t) ∧ (∃ t, exec (.pop (ind 1)) mid = .next t) ∧
    destinationCell (ind 1) mid = some 1 ∧ destinationCell (lit 1) mid = none :=
  ⟨⟨_, rfl⟩, ⟨_, rfl⟩, ⟨_, rfl⟩, ⟨_, rfl⟩, by decide, by decide⟩

theorem test_witness_FrameOfXchgIpoPut :
    (∃ t, exec (.xchg (ind 1) (ind 2)) mid = .next t) ∧ (∃ t, exec (.ipo (lit 2) (ind 1)) mid = .next t) ∧
    ∃ t, exec (.put (ind 1) (ind 100)) mid = .next t := ⟨⟨_, rfl⟩, ⟨_, rfl⟩, _, rfl⟩

theorem test_witness_FrameOfInt :
    (∃ t, exec (.int (lit 2)) mid = .next t) ∧ ¬ ∃ u, ReadsValue (lit 2) mid mid.params.softResetInt u := by
  refine ⟨⟨_, rfl⟩, ?_⟩
  rintro ⟨u, addr, h⟩
  have h2 : resolve (lit 2) .r mid = .ok ⟨none, some 2⟩ mid := by decide
  rw [h2] at h
  exact absurd (congrArg Resolved.val (Res.ok.inj h).1) (show ¬ some (2 : Int) = some 1 by decide)

/-- A LOOP and a RET that fault. -/
theorem test_witness_FaultKeepsState :
    (∃ t e, exec (.loop (num 2)) mid = .next t ∧ t.outcome = some (.faulted 0 e)) ∧
    ∃ t e, exec .ret { mid with stack := cells [(0, 2)] } = .next t ∧ t.outcome = some (.faulted 0 e) :=
  ⟨⟨_, ⟨2, some 2⟩, rfl, by decide⟩, _, ⟨7, some 2⟩, rfl, by decide⟩

theorem test_witness_ConsistencyCacheAgrees :
    allConsistent [⟨22, 0x0010, 1, 3⟩, Record.nop] = true ∧
    [⟨22, 0x0010, 1, 3⟩, Record.nop][0]? = some (⟨22, 0x0010, 1, 3⟩ : Record) ∧
    Opcode.ofNumber 22 = some .mov := by decide

end Sys2Proof.Tests
end

section
/-! PROOFS of the family 10_state.md: the launch constants never change and every step keeps the engine's invariant. One
relation, `Preserves`, says both of two states. It is reflexive and transitive, each update of the state keeps
it, and every rule, every stage and the step are chains of such updates. -/

namespace Sys2Proof.Machine

/-- `t` has the launch constants of `s` (10_state.md R45), and meets the engine's invariant where `s` does. -/
structure Preserves (s t : State) : Prop where
  prog : t.prog = s.prog
  numTable : t.numTable = s.numTable
  alnumTable : t.alnumTable = s.alnumTable
  params : t.params = s.params
  inv : s.Inv → t.Inv

theorem Preserves.refl (s : State) : Preserves s s := ⟨rfl, rfl, rfl, rfl, id⟩

theorem Preserves.trans {s t u : State} (h : Preserves s t) (h' : Preserves t u) : Preserves s u :=
  ⟨h'.prog.trans h.prog, h'.numTable.trans h.numTable, h'.alnumTable.trans h.alnumTable, h'.params.trans h.params,
    h'.inv ∘ h.inv⟩

theorem Preserves.bind {α β : Type} {s : State} {r : Res α} {f : α → State → Res β} (h : Preserves s r.state)
    (hf : ∀ a t, r = .ok a t → Preserves t (f a t).state) : Preserves s (r.bind f).state := by
  cases r with
  | ok a t => exact h.trans (hf a t rfl)
  | raise e t => exact h

theorem ReadsOnly.preserves {s t : State} (h : ReadsOnly s t) : Preserves s t := by
  obtain ⟨as, rfl⟩ := h
  exact ⟨rfl, rfl, rfl, rfl, fun hs => { hs with }⟩

/-! ### The updates of the state -/

theorem setCell_preserves (s : State) {n : Nat} (hn : n < 1024) (v : Word) : Preserves s (s.setCell n v) :=
  ⟨rfl, rfl, rfl, rfl, fun hs => { hs with mem := Memory.wf_set hs.mem hn v }⟩

theorem Reg.addr_lt (r : Reg) : r.addr < 1024 := by cases r <;> decide

theorem setReg_preserves (s : State) (r : Reg) (v : Word) : Preserves s (s.setReg r v) :=
  setCell_preserves s r.addr_lt v

theorem setSlot_preserves (s : State) {k : Nat} (hk : k < s.params.stackSize) (v : Word) :
    Preserves s { s with stack := s.stack.set k v } :=
  ⟨rfl, rfl, rfl, rfl, fun hs => { hs with stack := Cells.wf_set hs.stack hk v }⟩

/-- The bound on a jump's target may come from the invariant (a table's entries) or from a check of its own. -/
theorem setIp_preserves {s : State} {k : Nat} (hk : s.Inv → k < s.prog.length) : Preserves s (s.setIp k) :=
  ⟨rfl, rfl, rfl, rfl, fun hs => { hs with ip := hk hs }⟩

theorem call_preserves (s : State) (c : HostCall) : Preserves s (s.call c) :=
  ⟨rfl, rfl, rfl, rfl, fun hs => { hs with }⟩

theorem softReset_preserves (s : State) : Preserves s s.softReset :=
  ⟨rfl, rfl, rfl, rfl, fun hs => { hs with mem := rfl, stack := rfl, ip := Nat.zero_lt_of_lt hs.ip }⟩

theorem applyWrites_preserves (s : State) (ws : List (Fin 14 × Word)) : Preserves s (s.applyWrites ws) := by
  induction ws generalizing s with
  | nil => exact .refl s
  | cons w ws ih => exact (setCell_preserves s (by omega) w.2).trans (ih _)

/-- The commit brings `micro` back below `MICRO_LIMIT` (10_state.md R43). -/
theorem commit_micro_lt (s : State) (c : Nat) : (s.commit c).micro < microLimit := by
  have hpos : 0 < microLimit := by decide
  rw [commit_eq]
  dsimp only
  split_ifs <;> omega

/-- An instruction's end: a commit, and what the step returns. -/
theorem commit_outcome_preserves (s : State) (c : Nat) (o : Option StepOutcome) :
    Preserves s { s.commit c with outcome := o } := by
  have hmicro := commit_micro_lt s c
  rw [commit_eq] at hmicro ⊢
  exact ⟨rfl, rfl, rfl, rfl, fun hs => { hs with micro := hmicro }⟩

theorem executed_preserves (s : State) (opc : Opcode) (arg : Option Int) : Preserves s (s.executed opc arg) :=
  commit_outcome_preserves s _ _

theorem runtimeError_preserves (s : State) (opc : Option Opcode) (arg : Option Int) (e : RuntimeError) :
    Preserves s (s.runtimeError opc arg e) :=
  commit_outcome_preserves s _ _

theorem skipped_preserves (s : State) : Preserves s s.skipped :=
  ⟨rfl, rfl, rfl, rfl, fun hs => { hs with }⟩

theorem beginStep_preserves (s : State) : Preserves s s.beginStep := by
  unfold State.beginStep
  split <;> exact ⟨rfl, rfl, rfl, rfl, fun hs => { hs with }⟩

/-- The fetch stays in the program: `ip` advances modulo `N`, and `prev_ip` is the old `ip` (10_state.md R40, R41). -/
theorem fetched_preserves (s : State) : Preserves s s.fetched :=
  ⟨rfl, rfl, rfl, rfl, fun hs => { hs with
    ip := Nat.mod_lt _ (Nat.zero_lt_of_lt hs.ip)
    prevIp := hs.ip
    mem := refreshShadow_wf _ hs.mem }⟩

/-! ### Words and labels -/

theorem toNat_eq_toInt_of_nonneg {w : Word} (h : 0 ≤ w.toInt) : (w.toNat : Int) = w.toInt := by
  rw [BitVec.toInt_eq_toNat_cond] at h ⊢
  split_ifs at h ⊢ <;> omega

/-- A lookup that answers gives an entry of its table (20_memory.md R84). -/
theorem lookupLabel_lt {n k : Nat} {table : List (Option Nat)} {i : Int} (ht : tableBelow n table = true)
    (h : lookupLabel table i = some k) : k < n := by
  unfold lookupLabel at h
  split at h
  · cases h
  · have hmem : some k ∈ table := List.mem_of_getElem? (Option.join_eq_some_iff.mp h)
    simpa using List.all_eq_true.mp ht _ hmem

theorem Preserves.launchPremise {s t : State} (h : Preserves s t) : t.launchPremise = s.launchPremise := by
  simp only [State.launchPremise, h.prog, h.numTable, h.alnumTable]

/-- Under the launch premise a jump target is a record index (40_execution_cycle.md R168). -/
theorem jumpTarget_lt {d : Operand} {n : Int} {s t : State} {k : Nat} (hs : s.launchPremise = true)
    (h : jumpTarget d n s = .ok k t) : k < s.prog.length := by
  simp only [State.launchPremise, Bool.and_eq_true] at hs
  obtain ⟨⟨-, hnum⟩, halnum⟩ := hs
  obtain ⟨k', hk', hl⟩ | ⟨hr, -⟩ := jumpTarget_cases d n s
  · cases hk'.symm.trans h
    split at hl
    · exact lookupLabel_lt halnum hl
    · exact lookupLabel_lt hnum hl
  · cases hr.symm.trans h

/-! ### The shared rules -/

/-- A resolved destination: its address is one of the cells 0 to 1023. -/
def Resolved.IsCell (x : Resolved) : Prop := ∃ a, x.addr = some a ∧ 0 ≤ a ∧ a < 1024

theorem isCell_of_resolve {d : Operand} {u : Usage} {s t : State} {x : Resolved} (h : resolve d u s = .ok x t)
    (hu : u.writes = true) : x.IsCell := by
  obtain ⟨a, _, hx, h0, hlt, -⟩ := resolve_destination hu h
  exact ⟨a, hx, h0, hlt⟩

theorem writeBack_preserves {x : Resolved} (hx : x.IsCell) (v : Word) (s : State) :
    Preserves s (writeBack x v s).state := by
  obtain ⟨a, ha, h0, hlt⟩ := hx
  simp only [writeBack, ha, Res.state_ok]
  exact setCell_preserves s (by omega) v

theorem memWrite_preserves (a : Int) (v : Word) (s : State) : Preserves s (memWrite a v s).state := by
  obtain ⟨h0, hlt, hw⟩ | ⟨-, -, hw⟩ | ⟨-, hw⟩ := memWrite_cases a v s <;> rw [hw]
  · exact setCell_preserves s (by omega) v
  · exact .refl s
  · exact .refl s

theorem pushWord_preserves (v : Word) (s : State) : Preserves s (pushWord v s).state := by
  obtain ⟨-, hp⟩ | ⟨h0, hlt, hp⟩ := pushWord_cases v s <;> rw [hp]
  · exact .refl s
  · have hsp := toNat_eq_toInt_of_nonneg h0
    exact (setSlot_preserves s (by omega) v).trans (setCell_preserves _ (by omega) _)

theorem popWord_preserves (s : State) : Preserves s (popWord s).state := by
  obtain ⟨-, hp⟩ | ⟨-, -, hp⟩ := popWord_cases s <;> rw [hp]
  · exact .refl s
  · exact setCell_preserves s (by omega) _

theorem jumpTarget_preserves (d : Operand) (n : Int) (s : State) : Preserves s (jumpTarget d n s).state :=
  (readsOnly_of_state_eq (jumpTarget_state d n s)).preserves

/-- A lookup that answers leaves the state as it was. -/
theorem eq_of_jumpTarget_ok {d : Operand} {n : Int} {s t : State} {k : Nat} (h : jumpTarget d n s = .ok k t) :
    t = s := by
  have hst := jumpTarget_state d n s
  rwa [h] at hst

theorem jumpTo_preserves (d : Operand) (n : Int) (s : State) : Preserves s (jumpTo d n s).state := by
  refine (jumpTarget_preserves d n s).bind fun k t h => ?_
  cases eq_of_jumpTarget_ok h
  exact setIp_preserves fun hs => jumpTarget_lt hs.launch h

theorem returnIndex_lt {s : State} {link : Nat} (h : link < s.prog.length) : returnIndex s link < s.prog.length := by
  unfold returnIndex
  split
  · exact Nat.mod_lt _ (Nat.zero_lt_of_lt h)
  · exact h

theorem checkPortIn_state (p : Int) (s : State) : (checkPortIn p s).state = s := by
  unfold checkPortIn; split <;> rfl

theorem checkPortOut_state (p : Int) (s : State) : (checkPortOut p s).state = s := by
  unfold checkPortOut; split <;> rfl

theorem portIn_preserves (p : Int) (s : State) : Preserves s (portIn p s).state := by
  unfold portIn; split <;> exact call_preserves s _

theorem portOut_preserves (p v : Int) (s : State) : Preserves s (portOut p v s).state := by
  unfold portOut; split <;> exact call_preserves s _

theorem hostInterrupt_preserves (n : Int) (s : State) : Preserves s (hostInterrupt n s).state := by
  unfold hostInterrupt
  split
  · exact (call_preserves s _).trans (applyWrites_preserves _ _)
  · exact call_preserves s _

/-! ### The rules of the instructions -/

/-- The rule of `opc` preserves, from every state, whatever its operands resolved to: a destination resolved to a cell. -/
def RulePreserves (opc : Opcode) (rule : Resolved → Resolved → State → Res Unit) : Prop :=
  ∀ a b s, ((useA opc).writes = true → a.IsCell) → ((useB opc).writes = true → b.IsCell) →
    Preserves s (rule a b s).state

/-- Any word written to the destination A. -/
theorem writeBackA_rulePreserves {opc : Opcode} (hA : (useA opc).writes = true)
    (v : Resolved → Resolved → State → Word) : RulePreserves opc (fun a b s => writeBack a (v a b s) s) :=
  fun _ _ s ha _ => writeBack_preserves (ha hA) _ s

theorem writeA_rulePreserves {opc : Opcode} (hA : (useA opc).writes = true) (f : Int → Int → Word) :
    RulePreserves opc (writeA f) :=
  writeBackA_rulePreserves hA fun a b _ => f a.value b.value

theorem divideA_rulePreserves {opc : Opcode} (hA : (useA opc).writes = true) (f : Int → Int → Int) :
    RulePreserves opc (divideA f) := by
  intro a b s ha _
  unfold divideA
  split
  · exact .refl s
  · exact writeBack_preserves (ha hA) _ s

theorem setFlags_rulePreserves (opc : Opcode) (f : Int → Int → Nat) : RulePreserves opc (setFlags f) :=
  fun _ _ s _ _ => setReg_preserves s .flags _

theorem jumpIf_rulePreserves (opc : Opcode) (cond : Word → Bool) (d : Operand) :
    RulePreserves opc (jumpIf cond d) := by
  intro a b s _ _
  unfold jumpIf
  split
  · exact jumpTo_preserves d _ s
  · exact .refl s

theorem jumpToIndex_rulePreserves (opc : Opcode) : RulePreserves opc jumpToIndex := by
  intro a b s _ _
  unfold jumpToIndex
  split
  · exact .refl s
  · exact setIp_preserves fun _ => by omega

theorem xchgRule_rulePreserves : RulePreserves .xchg xchgRule :=
  fun _ _ s ha hb => (writeBack_preserves (ha rfl) _ s).bind fun _ t _ => writeBack_preserves (hb rfl) _ t

theorem getRule_rulePreserves : RulePreserves .get getRule :=
  fun _ _ s ha _ => (memRead_readsOnly _ s).preserves.bind fun v t _ => writeBack_preserves (ha rfl) v t

/-- The target of CALL is looked up before the push, which keeps the program and its tables. -/
theorem callRule_rulePreserves (opc : Opcode) (d : Operand) : RulePreserves opc (callRule d) := by
  intro a b s _ _
  refine (jumpTarget_preserves d _ s).bind fun k t hk => ?_
  cases eq_of_jumpTarget_ok hk
  have hpush := pushWord_preserves (storeWord (callLink s)) s
  refine hpush.bind fun _ u hu => setIp_preserves fun hs => ?_
  rw [hu, Res.state_ok] at hpush
  rw [hpush.prog]
  exact jumpTarget_lt (hpush.launchPremise ▸ hs.launch) hk

theorem retRule_rulePreserves (opc : Opcode) : RulePreserves opc retRule := by
  intro a b s _ _
  refine (popWord_preserves s).bind fun r t _ => ?_
  split
  · exact .refl t
  · next hr =>
    have hlink := toNat_eq_toInt_of_nonneg (w := r) (by omega)
    exact setIp_preserves fun _ => returnIndex_lt (by omega)

theorem popRule_rulePreserves : RulePreserves .pop popRule :=
  fun _ _ s ha _ => (popWord_preserves s).bind fun v t _ => writeBack_preserves (ha rfl) v t

theorem loopRule_rulePreserves (opc : Opcode) (d : Operand) : RulePreserves opc (loopRule d) := by
  intro a b s _ _
  unfold loopRule
  dsimp only
  split
  · exact (setReg_preserves s .cx _).trans (jumpTo_preserves d _ _)
  · exact setReg_preserves s .cx _

theorem intRule_rulePreserves (opc : Opcode) : RulePreserves opc intRule := by
  intro a b s _ _
  unfold intRule
  split
  · exact .refl s
  split
  · exact softReset_preserves s
  · exact hostInterrupt_preserves _ s

theorem ipoRule_rulePreserves : RulePreserves .ipo ipoRule :=
  fun _ _ s _ hb => (readsOnly_of_state_eq (checkPortIn_state _ s)).preserves.bind fun _ t _ =>
    (portIn_preserves _ t).bind fun v u _ => writeBack_preserves (hb rfl) v u

theorem opoRule_rulePreserves (opc : Opcode) : RulePreserves opc opoRule :=
  fun _ _ s _ _ => (readsOnly_of_state_eq (checkPortOut_state _ s)).preserves.bind fun _ t _ => portOut_preserves _ _ t

/-! ### The stages of the step -/

theorem finish_preserves {s : State} {r : Res Unit} (h : Preserves s r.state) (opc : Opcode) (arg : Option Int) :
    Preserves s (finish opc arg r) := by
  cases r with
  | ok _ t => exact h.trans (executed_preserves t opc arg)
  | raise e t => exact h.trans (runtimeError_preserves t _ arg e)

/-- The stages around a rule only read, commit and report, so an instruction preserves what its rule does. -/
theorem runInstr_preserves {opc : Opcode} {dA dB : Operand} {rule : Resolved → Resolved → State → Res Unit}
    {s t : State} (h : runInstr opc dA dB rule s = .next t) (hrule : RulePreserves opc rule) : Preserves s t := by
  obtain ⟨w, -, rfl⟩ | ⟨-, e, u, hA, rfl⟩ | ⟨-, a, u, hA, hB⟩ := runInstr_cases h
  · exact runtimeError_preserves s _ _ _
  · exact ((resolve_readsOnly dA _ s).of_raise hA).preserves.trans (runtimeError_preserves u _ _ e)
  · have hsu := ((resolve_readsOnly dA _ s).of_ok hA).preserves
    obtain ⟨e, x, hB, rfl⟩ | ⟨b, x, hB, rfl⟩ := hB
    · have hux := ((resolve_readsOnly dB _ u).of_raise hB).preserves
      exact (hsu.trans hux).trans (runtimeError_preserves x _ _ e)
    · have hux := ((resolve_readsOnly dB _ u).of_ok hB).preserves
      exact (hsu.trans hux).trans
        (finish_preserves (hrule a b x (isCell_of_resolve hA) (isCell_of_resolve hB)) opc _)

theorem exec_preserves {i : Instr} {s t : State} (h : exec i s = .next t) : Preserves s t := by
  cases i with
  | add dA dB | sub dA dB | mpy dA dB =>
    dsimp only [exec, execAdd, execSub, execMpy] at h
    exact runInstr_preserves h (writeA_rulePreserves rfl _)
  | inc dA | dec dA | neg dA | not dA =>
    dsimp only [exec, execInc, execDec, execNeg, execNot] at h
    exact runInstr_preserves h (writeA_rulePreserves rfl _)
  | or dA dB | and dA dB | xor dA dB =>
    dsimp only [exec, execOr, execAnd, execXor] at h
    exact runInstr_preserves h (writeA_rulePreserves rfl _)
  | shl dA dB | shr dA dB | rol dA dB | ror dA dB | sal dA dB | sar dA dB =>
    dsimp only [exec, execShl, execShr, execRol, execRor, execSal, execSar] at h
    exact runInstr_preserves h (writeA_rulePreserves rfl _)
  | div dA dB | mod dA dB =>
    dsimp only [exec, execDiv, execMod] at h
    exact runInstr_preserves h (divideA_rulePreserves rfl _)
  | mov dA dB | loc dA dB =>
    dsimp only [exec, execMov, execLoc] at h
    exact runInstr_preserves h (writeBackA_rulePreserves rfl fun _ _ _ => _)
  | cmp dA dB | test dA dB =>
    dsimp only [exec, execCmp, execTest] at h
    exact runInstr_preserves h (setFlags_rulePreserves _ _)
  | jls dA | jgr dA | jne dA | jeq dA | jz dA | jnz dA | jae dA | jbe dA =>
    dsimp only [exec, execJls, execJgr, execJne, execJeq, execJz, execJnz, execJae, execJbe] at h
    exact runInstr_preserves h (jumpIf_rulePreserves _ _ dA)
  | jmp dA =>
    dsimp only [exec, execJmp] at h
    exact runInstr_preserves h fun _ _ u _ _ => jumpTo_preserves dA _ u
  | jtl dA =>
    dsimp only [exec, execJtl] at h
    exact runInstr_preserves h (jumpToIndex_rulePreserves _)
  | call dA =>
    dsimp only [exec, execCall] at h
    exact runInstr_preserves h (callRule_rulePreserves _ dA)
  | ret =>
    dsimp only [exec, execRet] at h
    exact runInstr_preserves h (retRule_rulePreserves _)
  | push dA =>
    dsimp only [exec, execPush] at h
    exact runInstr_preserves h fun _ _ u _ _ => pushWord_preserves _ u
  | pop dA =>
    dsimp only [exec, execPop] at h
    exact runInstr_preserves h popRule_rulePreserves
  | doCx dA =>
    dsimp only [exec, execDoCx] at h
    exact runInstr_preserves h fun _ _ u _ _ => setReg_preserves u .cx _
  | loop dA =>
    dsimp only [exec, execLoop] at h
    exact runInstr_preserves h (loopRule_rulePreserves _ dA)
  | xchg dA dB =>
    dsimp only [exec, execXchg] at h
    exact runInstr_preserves h xchgRule_rulePreserves
  | get dA dB =>
    dsimp only [exec, execGet] at h
    exact runInstr_preserves h getRule_rulePreserves
  | put dA dB =>
    dsimp only [exec, execPut] at h
    exact runInstr_preserves h fun _ _ u _ _ => memWrite_preserves _ _ u
  | nop | delay dA | err dA =>
    dsimp only [exec, execNop, execDelay, execErr] at h
    exact runInstr_preserves h fun _ _ u _ _ => .refl u
  | int dA =>
    dsimp only [exec, execInt] at h
    exact runInstr_preserves h (intRule_rulePreserves _)
  | ipo dA dB =>
    dsimp only [exec, execIpo] at h
    exact runInstr_preserves h ipoRule_rulePreserves
  | opo dA dB =>
    dsimp only [exec, execOpo] at h
    exact runInstr_preserves h (opoRule_rulePreserves _)
  | numericLabel index x | symbolicLabel index x =>
    cases h
    exact skipped_preserves s

theorem runDecoded_preserves {d : Decoded} {s t : State} (h : runDecoded d s = .next t) : Preserves s t := by
  unfold runDecoded at h
  split at h
  · exact exec_preserves h
  · cases h; exact runtimeError_preserves s _ _ _
  · cases h; exact runtimeError_preserves s _ _ _
  · next d0 dA dB =>
    have hread := resolveOpcode_readsOnly d0 s
    split at h
    · next e u hr => cases h; exact (hread.of_raise hr).preserves.trans (runtimeError_preserves u _ _ e)
    · next opc u hr =>
      refine (hread.of_ok hr).preserves.trans ?_
      split at h
      · exact exec_preserves h
      · cases h; exact runtimeError_preserves u _ _ _

theorem cycle_preserves {s t : State} (h : cycle s = .next t) : Preserves s t := by
  unfold cycle at h
  split at h
  · cases h; exact ⟨rfl, rfl, rfl, rfl, fun hs => { hs with }⟩
  split at h
  · cases h; exact ⟨rfl, rfl, rfl, rfl, fun hs => { hs with }⟩
  split at h
  · cases h
  · exact (fetched_preserves s).trans (runDecoded_preserves h)

theorem step_preserves {s t : State} (h : step s = .next t) : Preserves s t :=
  (beginStep_preserves s).trans (cycle_preserves h)

/-! ### The obligations -/

/-- Settles O15, by the four equations of `Preserves` for the step. -/
theorem launchConstantsNeverChange : Obligations.LaunchConstantsNeverChange := by
  intro s t h
  obtain ⟨hprog, hnum, halnum, hparams, -⟩ := step_preserves h
  exact ⟨hprog, hnum, halnum, hparams⟩

/-- Settles O16, by the invariant's part of `Preserves` for the step. -/
theorem stepKeepsInvariant : Obligations.StepKeepsInvariant := fun _ _ hs h => (step_preserves h).inv hs

end Sys2Proof.Machine
end

section
/-! PROOFS of the family 20_memory.md: the answer of a read and of a write at each region of the address map, one
equation per region, and what a store to a cell does to the reads after it. -/

namespace Sys2Proof.Machine

/-! ### The answer of a read, region by region -/

/-- A read outside the address space, or above the greatest data address (20_memory.md R72, R75). -/
theorem memRead_outside {a : Int} {s : State} (h : a < 0 ∨ 1024 + 4 * (s.prog.length : Int) ≤ a ∨ 32767 < a) :
    memRead a s = .raise ⟨4, some a⟩ s := by
  obtain ⟨-, hr⟩ | ⟨hcell, -⟩ | ⟨hlo, hhi, -⟩ | ⟨hlo, hmax, hhi, -⟩ := memRead_cases a s
  · exact hr
  all_goals omega

/-- A read of a cell outside the shunt window (20_memory.md R72). -/
theorem memRead_cell {a : Int} {s : State} (h : (0 ≤ a ∧ a < 512) ∨ (768 ≤ a ∧ a < 1024)) :
    memRead a s = .ok (s.cell a.toNat) s := by
  obtain ⟨hout, -⟩ | ⟨-, hr⟩ | ⟨hlo, hhi, -⟩ | ⟨hlo, -⟩ := memRead_cases a s
  on_goal 2 => exact hr
  all_goals omega

/-- A read of the shunt window asks the host once (20_memory.md R73). -/
theorem memRead_shunt {a : Int} {s : State} (h : 512 ≤ a) (h' : a < 768) :
    memRead a s = .ok ((shuntRead a s).1.getD (s.cell a.toNat)) (shuntRead a s).2 := by
  obtain ⟨hout, -⟩ | ⟨hcell, -⟩ | ⟨-, -, hr⟩ | ⟨hlo, -⟩ := memRead_cases a s
  on_goal 3 => exact hr
  all_goals omega

/-- A read of the mirror below the greatest data address (20_memory.md R74, R75). -/
theorem memRead_mirror {a : Int} {s : State} (h : 1024 ≤ a) (hmax : a ≤ 32767)
    (h' : a < 1024 + 4 * (s.prog.length : Int)) :
    memRead a s = .ok (mirrorWord s.prog ((a.toNat - 1024) / 4) ((a.toNat - 1024) % 4)) s := by
  obtain ⟨hout, -⟩ | ⟨hcell, -⟩ | ⟨-, hhi, -⟩ | ⟨-, -, -, hr⟩ := memRead_cases a s
  on_goal 4 => exact hr
  all_goals omega

theorem mirrorWord_of_record {prog : List Record} {i : Nat} {r : Record} (hr : prog[i]? = some r) (k : Nat) :
    mirrorWord prog i k = r.word k := by
  rw [mirrorWord, hr]

/-- Word `k` of record `i` is read at `1024 + 4 i + k`; record 7935 is the last one readable (20_memory.md R74,
R75). -/
theorem memRead_record {s : State} {i k : Nat} {r : Record} (hk : k < 4) (hi : i ≤ 7935) (hr : s.prog[i]? = some r) :
    memRead (1024 + 4 * (i : Int) + k) s = .ok (r.word k) s := by
  obtain ⟨hlen, -⟩ := List.getElem?_eq_some_iff.mp hr
  have hrec : ((1024 + 4 * (i : Int) + k).toNat - 1024) / 4 = i := by omega
  have hword : ((1024 + 4 * (i : Int) + k).toNat - 1024) % 4 = k := by omega
  rw [memRead_mirror (by omega) (by omega) (by omega), hrec, hword, mirrorWord_of_record hr]

/-! ### The answer of a write, region by region -/

theorem memWrite_cell {a : Int} (v : Word) (s : State) (h : 0 ≤ a) (h' : a < 1024) :
    memWrite a v s = .ok () (s.setCell a.toNat v) := by
  obtain ⟨-, -, hw⟩ | ⟨hlo, -⟩ | ⟨hout, -⟩ := memWrite_cases a v s
  · exact hw
  all_goals omega

theorem memWrite_mirror {a : Int} (v : Word) {s : State} (h : 1024 ≤ a) (h' : a < 1024 + 4 * (s.prog.length : Int)) :
    memWrite a v s = .raise ⟨3, some a⟩ s := by
  obtain ⟨-, hhi, -⟩ | ⟨-, -, hw⟩ | ⟨hout, -⟩ := memWrite_cases a v s
  on_goal 2 => exact hw
  all_goals omega

theorem memWrite_outside {a : Int} (v : Word) {s : State} (h : a < 0 ∨ 1024 + 4 * (s.prog.length : Int) ≤ a) :
    memWrite a v s = .raise ⟨4, some a⟩ s := by
  obtain ⟨hlo, hhi, -⟩ | ⟨hlo, hhi, -⟩ | ⟨-, hw⟩ := memWrite_cases a v s
  on_goal 3 => exact hw
  all_goals omega

/-- A write that succeeds is a store to one of the cells 0 to 1023 (20_memory.md R76). -/
theorem memWrite_ok {a : Int} {v : Word} {s t : State} (h : memWrite a v s = .ok () t) :
    0 ≤ a ∧ a < 1024 ∧ t = s.setCell a.toNat v := by
  obtain ⟨h0, hlt, hw⟩ | ⟨-, -, hw⟩ | ⟨-, hw⟩ := memWrite_cases a v s <;> cases hw.symm.trans h
  exact ⟨h0, hlt, rfl⟩

/-! ### Reads after a store to a cell -/

/-- The stored word is read back, unless the host answers a shunt read (20_memory.md R92). -/
theorem memRead_setCell_same {a : Int} (v : Word) {s : State} (h0 : 0 ≤ a) (hlt : a < 1024)
    (hhost : a < 512 ∨ 768 ≤ a ∨ s.now.shunt.head?.join = none) :
    ∃ u, memRead a (s.setCell a.toNat v) = .ok v u := by
  have hcell : (s.setCell a.toNat v).cell a.toNat = v := by rw [cell_setCell, if_pos rfl]
  by_cases hshunt : 512 ≤ a ∧ a < 768
  · obtain ⟨hlo, hhi⟩ := hshunt
    have hnone : s.now.shunt.head?.join = none := (hhost.resolve_left (by omega)).resolve_left (by omega)
    have hanswer : (shuntRead a (s.setCell a.toNat v)).1 = none := hnone
    exact ⟨_, by rw [memRead_shunt hlo hhi, hanswer, hcell, Option.getD_none]⟩
  · have hout : (0 ≤ a ∧ a < 512) ∨ (768 ≤ a ∧ a < 1024) := by omega
    exact ⟨_, by rw [memRead_cell hout, hcell]⟩

/-- A read at another address answers the same word and commutes with the store. -/
theorem memRead_setCell_of_ne {b : Int} {c : Nat} (v : Word) {s u : State} {w : Word} (hne : b ≠ c)
    (h : memRead b s = .ok w u) : memRead b (s.setCell c v) = .ok w (u.setCell c v) := by
  have hkeep (h0 : 0 ≤ b) : (s.setCell c v).cell b.toNat = s.cell b.toNat := by
    rw [cell_setCell, if_neg (by omega)]
  obtain ⟨-, hr⟩ | ⟨hcell, hr⟩ | ⟨hlo, hhi, hr⟩ | ⟨hlo, hmax, hhi, hr⟩ := memRead_cases b s <;>
    cases hr.symm.trans h
  · rw [memRead_cell hcell, hkeep (by omega)]
  · rw [memRead_shunt hlo hhi, hkeep (by omega)]
    rfl
  · rw [memRead_mirror hlo hmax (by simpa using hhi), setCell_prog]

/-- Whether a read faults depends on the address and the program only, so a store keeps every fault. -/
theorem memRead_setCell_raise {b : Int} {s u : State} {e : RuntimeError} (c : Nat) (v : Word)
    (h : memRead b s = .raise e u) : memRead b (s.setCell c v) = .raise e (s.setCell c v) := by
  obtain ⟨-, rfl, hout⟩ := memRead_raise h
  exact memRead_outside (by simpa using hout)

/-! ### The obligations of the family 20_memory.md -/

/-- Settles O22: a write that succeeds is a store to one cell, and each clause is one of the lemmas on reads after it. -/
theorem readAfterWrite : Obligations.ReadAfterWrite := by
  intro s t a v hw
  obtain ⟨h0, hlt, rfl⟩ := memWrite_ok hw
  refine ⟨fun hhost => memRead_setCell_same v h0 hlt hhost, fun b w u hne hr => ?_,
    fun b e u hr => memRead_setCell_raise _ v hr⟩
  exact ⟨_, memRead_setCell_of_ne v (by omega) hr⟩

/-- Settles O23, by the equation of each region. -/
theorem memReadByRegion : Obligations.MemReadByRegion := by
  intro s a
  refine ⟨memRead_outside, memRead_cell, memRead_shunt, ?_⟩
  rintro i k r rfl hk hi hr
  exact memRead_record hk hi hr

/-- Settles O24, by the equation of each region; the frame is that of the store to the one cell. -/
theorem memWriteByRegion : Obligations.MemWriteByRegion := by
  intro s a v
  refine ⟨memWrite_outside v, memWrite_mirror v, fun h0 hlt => ⟨_, memWrite_cell v s h0 hlt, ?_, ?_, rfl⟩⟩
  · rw [cell_setCell, if_pos rfl]
  · intro c hc
    rw [cell_setCell, if_neg hc]

end Sys2Proof.Machine
end

section
/-! PROOFS of the family 30_encoding.md, fields and records. A descriptor and its nibble are inverses, so are a modifier
word and its four nibbles, and the decoder has one equation per kind of opcode field. -/

namespace Sys2Proof.Machine

/-! ### Descriptors and nibbles -/

@[simp] theorem ofBits_bits (t : FieldType) : FieldType.ofBits t.bits = t := by cases t <;> rfl

@[simp] theorem bits_ofBits (b : BitVec 3) : (FieldType.ofBits b).bits = b := by decide +revert

/-- Bit 3 of a nibble, then bits 2:0 (30_encoding.md R113). -/
theorem ofBool_append_extractLsb' (n : BitVec 4) : BitVec.ofBool (n.getLsbD 3) ++ n.extractLsb' 0 3 = n := by
  decide +revert

@[simp] theorem nibble_ofNibble (v : Word) (n : BitVec 4) : (Operand.ofNibble v n).nibble = n := by
  rw [Operand.nibble, Operand.ofNibble, bits_ofBits, ofBool_append_extractLsb']

@[simp] theorem ofNibble_nibble (d : Operand) : Operand.ofNibble d.value d.nibble = d := by
  have htype : FieldType.ofBits (d.nibble.extractLsb' 0 3) = d.type := by
    rw [Operand.nibble, BitVec.extractLsb'_append_eq_right, ofBits_bits]
  have htwo : d.nibble.getLsbD 3 = d.indirectTwo := by
    rw [Operand.nibble, BitVec.getLsbD_append, if_neg (by decide)]
    cases d.indirectTwo <;> rfl
  rw [Operand.ofNibble, htype, htwo]

/-! ### The modifier word and its nibbles -/

/-- The modifier word of four nibbles, bits 15:12 first (30_encoding.md R112). -/
def modifierOf (n3 n2 n1 n0 : BitVec 4) : Word := n3 ++ n2 ++ n1 ++ n0

theorem modifierOf_extractLsb' (w : Word) :
    modifierOf (w.extractLsb' 12 4) (w.extractLsb' 8 4) (w.extractLsb' 4 4) (w.extractLsb' 0 4) = w := by
  rw [modifierOf, BitVec.extractLsb'_append_extractLsb'_eq_extractLsb' (rfl : 12 = 8 + 4),
    BitVec.extractLsb'_append_extractLsb'_eq_extractLsb' (rfl : 8 = 4 + 4),
    BitVec.extractLsb'_append_extractLsb'_eq_extractLsb' (rfl : 4 = 0 + 4)]
  exact BitVec.extractLsb'_eq_self

section
variable (n3 n2 n1 n0 : BitVec 4)

@[simp] theorem extractLsb'_0_modifierOf : (modifierOf n3 n2 n1 n0).extractLsb' 0 4 = n0 :=
  BitVec.extractLsb'_append_eq_right

@[simp] theorem extractLsb'_4_modifierOf : (modifierOf n3 n2 n1 n0).extractLsb' 4 4 = n1 := by
  rw [modifierOf, BitVec.extractLsb'_append_eq_of_le (by decide)]
  exact BitVec.extractLsb'_append_eq_right

@[simp] theorem extractLsb'_8_modifierOf : (modifierOf n3 n2 n1 n0).extractLsb' 8 4 = n2 := by
  rw [modifierOf, BitVec.extractLsb'_append_eq_of_le (by decide), BitVec.extractLsb'_append_eq_of_le (by decide)]
  exact BitVec.extractLsb'_append_eq_right

@[simp] theorem extractLsb'_12_modifierOf : (modifierOf n3 n2 n1 n0).extractLsb' 12 4 = n3 := by
  rw [modifierOf, BitVec.extractLsb'_append_eq_of_le (by decide), BitVec.extractLsb'_append_eq_of_le (by decide),
    BitVec.extractLsb'_append_eq_of_le (by decide)]
  exact BitVec.extractLsb'_eq_self

end

/-- A word is the modifier word of four nibbles exactly when they are its own. -/
theorem modifierOf_eq_iff {n3 n2 n1 n0 : BitVec 4} {w : Word} :
    modifierOf n3 n2 n1 n0 = w ↔
      n3 = w.extractLsb' 12 4 ∧ n2 = w.extractLsb' 8 4 ∧ n1 = w.extractLsb' 4 4 ∧ n0 = w.extractLsb' 0 4 := by
  constructor
  · rintro rfl
    simp
  · rintro ⟨rfl, rfl, rfl, rfl⟩
    exact modifierOf_extractLsb' w

/-! ### A record and its descriptors -/

theorem ofDescriptors_eq (d0 dA dB : Operand) :
    Record.ofDescriptors d0 dA dB = ⟨d0.value, modifierOf 0 dB.nibble dA.nibble d0.nibble, dA.value, dB.value⟩ := rfl

@[simp] theorem opField_ofDescriptors (d0 dA dB : Operand) : (Record.ofDescriptors d0 dA dB).opField = d0 := by
  simp [ofDescriptors_eq, Record.opField]

@[simp] theorem opA_ofDescriptors (d0 dA dB : Operand) : (Record.ofDescriptors d0 dA dB).opA = dA := by
  simp [ofDescriptors_eq, Record.opA]

@[simp] theorem opB_ofDescriptors (d0 dA dB : Operand) : (Record.ofDescriptors d0 dA dB).opB = dB := by
  simp [ofDescriptors_eq, Record.opB]

@[simp] theorem ofDescriptors_w0 (d0 dA dB : Operand) : (Record.ofDescriptors d0 dA dB).w0 = d0.value := rfl

/-- Re-encoding keeps every bit but bits 15:12 of the modifier word (30_encoding.md R110). -/
theorem ofDescriptors_descriptors {r : Record} (h : r.w1.extractLsb' 12 4 = 0) :
    Record.ofDescriptors r.opField r.opA r.opB = r := by
  have hw1 : modifierOf 0 r.opB.nibble r.opA.nibble r.opField.nibble = r.w1 := by
    simp [modifierOf_eq_iff, h, Record.opField, Record.opA, Record.opB]
  rw [ofDescriptors_eq, hw1]
  rfl

/-! ### The opcode map -/

@[simp] theorem ofNumber_number (o : Opcode) : Opcode.ofNumber (BitVec.ofNat 16 o.number).toInt = some o := by
  cases o <;> rfl

theorem number_of_table {n : Nat} (h : n ≤ 46) : ∃ o : Opcode, o.number = n ∧ Opcode.table[n]? = some o := by
  have hmap : ∀ k < 47, Opcode.table[k]?.map Opcode.number = some k := by decide
  obtain ⟨o, ho, hn⟩ := Option.map_eq_some_iff.mp (hmap n (by omega))
  exact ⟨o, hn, ho⟩

/-- The numbers 0 to 46 are the opcodes' (30_encoding.md R120). -/
theorem ofNumber_of_le {w : Word} (h : w.toNat ≤ 46) :
    ∃ o : Opcode, o.number = w.toNat ∧ Opcode.ofNumber w.toInt = some o := by
  have hint : w.toInt = w.toNat := BitVec.toInt_eq_toNat_of_lt (by omega)
  obtain ⟨o, hn, ho⟩ := number_of_table h
  refine ⟨o, hn, ?_⟩
  rw [Opcode.ofNumber, hint, if_neg (by omega), Int.toNat_natCast, ho]

/-- Every other word, the negative ones among them, is no opcode's number (30_encoding.md R122). -/
theorem ofNumber_of_gt {w : Word} (h : 46 < w.toNat) : Opcode.ofNumber w.toInt = none := by
  unfold Opcode.ofNumber
  split
  · rfl
  · next hneg =>
    have hint := toNat_eq_toInt_of_nonneg (w := w) (by omega)
    have hlen : Opcode.table.length = 47 := rfl
    exact List.getElem?_eq_none (by omega)

/-! ### The decoder, one equation per kind of opcode field -/

theorem decode_numericJump {r : Record} (h : r.opField.type = .numericJump) :
    decode r = .instr (.numericLabel r.w0 r.opField.indirectTwo) := by
  rw [decode, h]

theorem decode_symbolicJump {r : Record} (h : r.opField.type = .symbolicJump) :
    decode r = .instr (.symbolicLabel r.w0 r.opField.indirectTwo) := by
  rw [decode, h]

theorem decode_reserved {r : Record} (h : r.opField.type.isReserved = true) :
    decode r = .reject (.reservedOpcodeNibble r.w0) := by
  cases htype : r.opField.type with
  | reserved3 | reserved5 | reserved6 | reserved7 => rw [decode, htype]
  | literal | indirectOne | numericJump | symbolicJump =>
    rw [htype] at h
    cases h

theorem decode_level_zero {r : Record} (h : r.opField.type = .literal) (htwo : r.opField.indirectTwo = false) :
    decode r = decodeNumber r.w0 r.opA r.opB := by
  have hlevel : r.opField.level = 0 := by simp [Operand.level, h, htwo]
  rw [decode, h]
  simp only [hlevel]

theorem decode_indirect {r : Record} (h : r.opField.type = .literal ∨ r.opField.type = .indirectOne)
    (hlevel : r.opField.level ≠ 0) : decode r = .opcodeInMemory r.opField r.opA r.opB := by
  obtain ⟨n, hn⟩ := Nat.exists_eq_succ_of_ne_zero hlevel
  obtain h | h := h
  · rw [decode, h]
    simp only [hn]
  · rw [decode, h]
    simp only [hn]

/-- The opcode's own record decodes to its instruction (30_encoding.md R119, R120). -/
theorem decode_pack (o : Opcode) (dA dB : Operand) : decode (pack o dA dB) = .instr (o.instr dA dB) := by
  unfold pack
  rw [decode_level_zero (by simp) (by simp)]
  simp [decodeNumber]

/-! ### The opcode field's type and second-indirection bit in the modifier word -/

/-- The low three bits of a word's nibble are bits of the word. -/
theorem nibble_type_bits (w : Word) (k : Nat) : (w.extractLsb' k 4).extractLsb' 0 3 = w.extractLsb' k 3 := by
  ext i hi
  simp [BitVec.getElem_extractLsb', show i < 4 by omega]

theorem opField_type (r : Record) : r.opField.type = FieldType.ofBits (r.w1.extractLsb' 0 3) := by
  rw [Record.opField, Operand.ofNibble, nibble_type_bits]

theorem opField_indirectTwo (r : Record) : r.opField.indirectTwo = r.w1.getLsbD 3 := by
  rw [Record.opField, Operand.ofNibble, BitVec.getLsbD_extractLsb']
  rfl

theorem ofBits_eq_numericJump_iff (b : BitVec 3) : FieldType.ofBits b = .numericJump ↔ b.toNat = 2 := by
  decide +revert

theorem ofBits_eq_symbolicJump_iff (b : BitVec 3) : FieldType.ofBits b = .symbolicJump ↔ b.toNat = 4 := by
  decide +revert

/-- The reserved types are 3, 5, 6 and 7 (30_encoding.md R124). -/
theorem isReserved_ofBits_iff (b : BitVec 3) : (FieldType.ofBits b).isReserved = true ↔ b.toNat ∈ [3, 5, 6, 7] := by
  decide +revert

theorem jumpKind_ofBits_iff (b : BitVec 3) : (FieldType.ofBits b).jumpKind ≠ .none ↔ b.toNat ∈ [2, 4] := by
  decide +revert

/-- Nibble 0 is a literal without an indirection (30_encoding.md R113, R119). -/
theorem ofNibble_zero (v : Word) {n : BitVec 4} (h : n.toNat = 0) : Operand.ofNibble v n = ⟨v, .literal, false⟩ := by
  obtain rfl : n = 0 := BitVec.eq_of_toNat_eq h
  rfl

/-- Nibbles 1, 8 and 9 are a reference at level 1 or 2 without a jump flag (30_encoding.md R113, R114). -/
theorem ofNibble_indirect (v : Word) {n : BitVec 4} (h : n.toNat ∈ [1, 8, 9]) :
    ((Operand.ofNibble v n).type = .literal ∨ (Operand.ofNibble v n).type = .indirectOne) ∧
      (Operand.ofNibble v n).level ≠ 0 := by
  have hn : n = 1 ∨ n = 8 ∨ n = 9 := by decide +revert
  obtain rfl | rfl | rfl := hn
  · exact ⟨.inr rfl, Nat.succ_ne_zero _⟩
  · exact ⟨.inl rfl, Nat.succ_ne_zero _⟩
  · exact ⟨.inr rfl, Nat.succ_ne_zero _⟩

/-! ### Re-encoding the flags -/

/-- The nibble that the settable flags of a descriptor give back (30_encoding.md R117). -/
def flagNibble (d : Operand) : BitVec 4 := BitVec.ofBool d.indirectTwo ++ d.type.flagBits

theorem reencodedModifier_eq (r : Record) :
    r.reencodedModifier = modifierOf 0 (flagNibble r.opB) (flagNibble r.opA) (flagNibble r.opField) := rfl

/-- A nibble comes back exactly when its type is not reserved. -/
theorem flagNibble_ofNibble_eq_iff (v : Word) (n : BitVec 4) :
    flagNibble (Operand.ofNibble v n) = n ↔ (n.extractLsb' 0 3).toNat ∉ [3, 5, 6, 7] := by
  simp only [flagNibble, Operand.ofNibble]
  decide +revert

/-- The modifier word comes back exactly when bits 15:12 are 0 and no field type is reserved (30_encoding.md R117). -/
theorem reencodedModifier_eq_iff (r : Record) :
    r.reencodedModifier = r.w1 ↔
      r.w1.extractLsb' 12 4 = 0 ∧ (r.w1.extractLsb' 8 3).toNat ∉ [3, 5, 6, 7] ∧
        (r.w1.extractLsb' 4 3).toNat ∉ [3, 5, 6, 7] ∧ (r.w1.extractLsb' 0 3).toNat ∉ [3, 5, 6, 7] := by
  rw [reencodedModifier_eq, modifierOf_eq_iff, eq_comm (a := 0), Record.opB, Record.opA, Record.opField,
    flagNibble_ofNibble_eq_iff, flagNibble_ofNibble_eq_iff, flagNibble_ofNibble_eq_iff, nibble_type_bits,
    nibble_type_bits, nibble_type_bits]

/-- A jump type is not `indirect_one`, so its level is the second-indirection bit (30_encoding.md R114, R115). -/
theorem jumpFlag_and_level_iff (d : Operand) :
    (d.jumpKind ≠ .none ∧ d.level ≠ 0) ↔ (d.type.jumpKind ≠ .none ∧ d.indirectTwo = true) := by
  obtain ⟨v, type, two⟩ := d
  cases type with
  | numericJump | symbolicJump => simp [Operand.jumpKind, Operand.level, FieldType.jumpKind]
  | _ => simp [Operand.jumpKind, FieldType.jumpKind]

theorem isData_iff (r : Record) :
    r.isData = true ↔ r.reencodedModifier ≠ r.w1 ∨ (r.opField.jumpKind ≠ .none ∧ r.opField.level ≠ 0) := by
  simp [Record.isData]

/-! ### Bits 15:12 of the modifier word -/

/-- The decoder reads `w0` and the three descriptors, and nothing else of a record. -/
theorem decode_congr {r r' : Record} (hw : r'.w0 = r.w0) (hop : r'.opField = r.opField) (hA : r'.opA = r.opA)
    (hB : r'.opB = r.opB) : decode r' = decode r := by
  simp only [decode, hw, hop, hA, hB]

/-- Nibbles 0 to 2 lie below bits 15:12. -/
theorem extractLsb'_upper_bits (w : Word) (u : BitVec 4) {k : Nat} (hk : k + 4 ≤ 12) :
    BitVec.extractLsb' k 4 (u ++ w.extractLsb' 0 12) = w.extractLsb' k 4 := by
  rw [BitVec.extractLsb'_append_eq_of_add_le hk, BitVec.extractLsb'_extractLsb'_of_le hk]

theorem decode_upper_bits (r : Record) (u : BitVec 4) :
    decode { r with w1 := u ++ r.w1.extractLsb' 0 12 } = decode r :=
  have hnibble {k : Nat} (hk : k + 4 ≤ 12) := extractLsb'_upper_bits r.w1 u hk
  decode_congr rfl (congrArg (Operand.ofNibble r.w0) (hnibble (by decide)))
    (congrArg (Operand.ofNibble r.w2) (hnibble (by decide))) (congrArg (Operand.ofNibble r.w3) (hnibble (by decide)))

/-! ### The obligations of the encoder and the decoder -/

/-- Settles O1: a label marker by its own equation, every other instruction as the record of its opcode. -/
theorem decodeOfEncode : Obligations.DecodeOfEncode := by
  intro i
  cases i with
  | numericLabel index x =>
    rw [encode, decode_numericJump (by simp)]
    simp
  | symbolicLabel index x =>
    rw [encode, decode_symbolicJump (by simp)]
    simp
  | _ => exact decode_pack _ _ _

/-- Settles O2: words to descriptors and back, and descriptors to words and back. -/
theorem descriptorsInverseOfWords : Obligations.DescriptorsInverseOfWords :=
  ⟨fun _ h => ofDescriptors_descriptors h, fun d0 dA dB =>
    ⟨opField_ofDescriptors d0 dA dB, opA_ofDescriptors d0 dA dB, opB_ofDescriptors d0 dA dB⟩⟩

/-- Settles O4, by when the modifier word comes back and when a jump flag stands with an indirection flag. -/
theorem isDataClosedForm : Obligations.IsDataClosedForm := by
  intro r
  rw [isData_iff, Ne, reencodedModifier_eq_iff, jumpFlag_and_level_iff, opField_type, opField_indirectTwo,
    jumpKind_ofBits_iff]
  tauto

/-- Settles O3: the descriptors hold none of bits 15:12, and `is_data` by its closed form. -/
theorem upperModifierBitsIgnored : Obligations.UpperModifierBitsIgnored := by
  refine ⟨decode_upper_bits, fun r u s => ?_, fun r h => ?_⟩
  · rw [decode_upper_bits]
  · exact (isDataClosedForm r).mpr (.inr (.inr (.inr (.inl h))))

/-- Settles O6: each clause is the decoder's equation for its kind of opcode field. -/
theorem opcodeFieldKinds : Obligations.OpcodeFieldKinds := by
  intro r
  have hdirect (h : (r.w1.extractLsb' 0 4).toNat = 0) : decode r = decodeNumber r.w0 r.opA r.opB := by
    have hop : r.opField = ⟨r.w0, .literal, false⟩ := ofNibble_zero r.w0 h
    exact decode_level_zero (by rw [hop]) (by rw [hop])
  refine ⟨fun h => ?_, fun h => ?_, fun h => ?_, fun h => ?_, fun h hw => ?_, fun h hw => ?_⟩
  · rw [← opField_indirectTwo, decode_numericJump (by rw [opField_type, ofBits_eq_numericJump_iff, h])]
  · rw [← opField_indirectTwo, decode_symbolicJump (by rw [opField_type, ofBits_eq_symbolicJump_iff, h])]
  · exact decode_reserved (by rwa [opField_type, isReserved_ofBits_iff])
  · obtain ⟨htype, hlevel⟩ := ofNibble_indirect r.w0 h
    exact decode_indirect htype hlevel
  · rw [hdirect h, decodeNumber, ofNumber_of_gt hw]
  · obtain ⟨o, hn, ho⟩ := ofNumber_of_le hw
    exact ⟨o, hn, by rw [hdirect h, decodeNumber, ho]⟩

end Sys2Proof.Machine
end

section
/-! PROOFS of the family 30_encoding.md, the stores. One relation, `KeepsBut p`, is the frame of an instruction that writes
the cells `p` and reads: it is reflexive and transitive, the stages around a rule keep it, and so does each rule that
stores to its operand A alone. -/

namespace Sys2Proof.Machine

/-- From `s` to `t`, cells that `p` names may have changed, and the host's answers and calls, what is owed and the outcome;
every other cell, the stack, `ip` and what no instruction writes are as before. -/
structure KeepsBut (p : Nat → Prop) (s t : State) : Prop where
  cells : SameCellsBut p s t
  stack : t.stack = s.stack
  ip : t.ip = s.ip
  fixtures : SameFixtures s t

section
variable {p : Nat → Prop} {s t u : State}

theorem SameFixtures.trans (h : SameFixtures s t) (h' : SameFixtures t u) : SameFixtures s u :=
  ⟨h'.prevIp.trans h.prevIp, h'.prog.trans h.prog, h'.numTable.trans h.numTable, h'.alnumTable.trans h.alnumTable,
    h'.params.trans h.params, h'.pending.trans h.pending, h'.hostClock.trans h.hostClock⟩

theorem KeepsBut.refl (p : Nat → Prop) (s : State) : KeepsBut p s s :=
  ⟨fun _ _ => rfl, rfl, rfl, ⟨rfl, rfl, rfl, rfl, rfl, rfl, rfl⟩⟩

theorem KeepsBut.trans (h : KeepsBut p s t) (h' : KeepsBut p t u) : KeepsBut p s u :=
  ⟨fun c hc => (h'.cells c hc).trans (h.cells c hc), h'.stack.trans h.stack, h'.ip.trans h.ip,
    h.fixtures.trans h'.fixtures⟩

theorem ReadsOnly.keepsBut (h : ReadsOnly s t) (p : Nat → Prop) : KeepsBut p s t := by
  obtain ⟨as, rfl⟩ := h
  exact ⟨fun _ _ => rfl, rfl, rfl, ⟨rfl, rfl, rfl, rfl, rfl, rfl, rfl⟩⟩

theorem setCell_keepsBut {n : Nat} (hn : p n) (s : State) (v : Word) : KeepsBut p s (s.setCell n v) :=
  ⟨fun c hc => by rw [cell_setCell, if_neg fun h : c = n => hc (h ▸ hn)], rfl, rfl, ⟨rfl, rfl, rfl, rfl, rfl, rfl, rfl⟩⟩

theorem executed_keepsBut (p : Nat → Prop) (s : State) (opc : Opcode) (arg : Option Int) :
    KeepsBut p s (s.executed opc arg) := by
  refine ⟨fun c _ => cell_eq_of_mem_eq ?_ c, ?_, ?_, ?_, ?_, ?_, ?_, ?_, ?_, ?_⟩ <;> simp

theorem runtimeError_keepsBut (p : Nat → Prop) (s : State) (opc : Option Opcode) (arg : Option Int)
    (e : RuntimeError) : KeepsBut p s (s.runtimeError opc arg e) := by
  refine ⟨fun c _ => cell_eq_of_mem_eq ?_ c, ?_, ?_, ?_, ?_, ?_, ?_, ?_, ?_, ?_⟩ <;> simp

theorem finish_keepsBut {r : Res Unit} (h : KeepsBut p s r.state) (opc : Opcode) (arg : Option Int) :
    KeepsBut p s (finish opc arg r) := by
  cases r with
  | ok _ t => exact h.trans (executed_keepsBut p t opc arg)
  | raise e t => exact h.trans (runtimeError_keepsBut p t _ arg e)

/-- The stages around a rule read, commit and report, so an instruction keeps what its rule keeps. -/
theorem runInstr_keepsBut {opc : Opcode} {dA dB : Operand} {rule : Resolved → Resolved → State → Res Unit}
    (h : runInstr opc dA dB rule s = .next t)
    (hrule : ∀ a b v x, resolve dA (useA opc) s = .ok a v → resolve dB (useB opc) v = .ok b x →
      KeepsBut p x (rule a b x).state) :
    KeepsBut p s t := by
  obtain ⟨w, -, rfl⟩ | ⟨-, e, v, hA, rfl⟩ | ⟨-, a, v, hA, hB⟩ := runInstr_cases h
  · exact runtimeError_keepsBut p s _ _ _
  · exact (((resolve_readsOnly dA _ s).of_raise hA).keepsBut p).trans (runtimeError_keepsBut p v _ _ e)
  · have hsv := ((resolve_readsOnly dA _ s).of_ok hA).keepsBut p
    obtain ⟨e, x, hB, rfl⟩ | ⟨b, x, hB, rfl⟩ := hB
    · have hvx := ((resolve_readsOnly dB _ v).of_raise hB).keepsBut p
      exact (hsv.trans hvx).trans (runtimeError_keepsBut p x _ _ e)
    · have hvx := ((resolve_readsOnly dB _ v).of_ok hB).keepsBut p
      exact (hsv.trans hvx).trans (finish_keepsBut (hrule a b v x hA hB) opc _)

end

/-! ### Rules that store to operand A -/

/-- The rule writes no cell but the one at A's address. -/
def StoresAtA (rule : Resolved → Resolved → State → Res Unit) : Prop :=
  ∀ (p : Nat → Prop) (a b : Resolved) (s : State), (∀ n : Int, a.addr = some n → p n.toNat) →
    KeepsBut p s (rule a b s).state

theorem writeBack_keepsBut {p : Nat → Prop} {x : Resolved} (hx : ∀ n : Int, x.addr = some n → p n.toNat) (v : Word)
    (s : State) : KeepsBut p s (writeBack x v s).state := by
  unfold writeBack
  split
  · exact .refl p s
  · next n hn => exact setCell_keepsBut (hx n hn) s v

theorem writeBackA_storesAtA (v : Resolved → Resolved → State → Word) :
    StoresAtA fun a b s => writeBack a (v a b s) s :=
  fun _ _ _ s ha => writeBack_keepsBut ha _ s

theorem writeA_storesAtA (f : Int → Int → Word) : StoresAtA (writeA f) :=
  writeBackA_storesAtA fun a b _ => f a.value b.value

theorem divideA_storesAtA (f : Int → Int → Int) : StoresAtA (divideA f) := by
  intro p a b s ha
  unfold divideA
  split
  · exact .refl p s
  · exact writeBack_keepsBut ha _ s

/-- The read of GET is a read only, and its write is that of A. -/
theorem getRule_storesAtA : StoresAtA getRule := by
  intro p a b s ha
  have hread := memRead_readsOnly b.value s
  unfold getRule
  cases hr : memRead b.value s with
  | raise e t => exact (hread.of_raise hr).keepsBut p
  | ok v t => exact ((hread.of_ok hr).keepsBut p).trans (writeBack_keepsBut ha v t)

/-- The instructions of `storesOnlyA`: the stages of the step around a rule that stores to the destination A. -/
theorem exec_of_storesOnlyA {i : Instr} {d : Operand} (h : storesOnlyA i = some d) :
    ∃ opc dB rule, exec i = runInstr opc d dB rule ∧ (useA opc).writes = true ∧ StoresAtA rule := by
  cases i with
  | add dA dB | sub dA dB | mpy dA dB | or dA dB | and dA dB | xor dA dB =>
    cases h; exact ⟨_, _, _, rfl, rfl, writeA_storesAtA _⟩
  | shl dA dB | shr dA dB | rol dA dB | ror dA dB | sal dA dB | sar dA dB =>
    cases h; exact ⟨_, _, _, rfl, rfl, writeA_storesAtA _⟩
  | inc dA | dec dA | neg dA | not dA => cases h; exact ⟨_, _, _, rfl, rfl, writeA_storesAtA _⟩
  | div dA dB | mod dA dB => cases h; exact ⟨_, _, _, rfl, rfl, divideA_storesAtA _⟩
  | mov dA dB | loc dA dB => cases h; exact ⟨_, _, _, rfl, rfl, writeBackA_storesAtA fun _ _ _ => _⟩
  | get dA dB => cases h; exact ⟨_, _, _, rfl, rfl, getRule_storesAtA⟩
  | _ => cases h

/-- A resolved destination's address is the cell `destinationCell` names. -/
theorem destinationCell_of_resolve {d : Operand} {u : Usage} {s t : State} {x : Resolved} (hu : u.writes = true)
    (h : resolve d u s = .ok x t) {n : Int} (hn : x.addr = some n) : destinationCell d s = some n.toNat := by
  obtain ⟨a, v, ha, h0, -, haddr⟩ := resolve_destination hu h
  obtain rfl : a = n := Option.some.inj (ha.symm.trans hn)
  rw [destinationCell, haddr]
  exact if_neg (by omega)

/-- The frame of a store to operand A: no cell changes but the one the operand's address part names. -/
theorem exec_storesOnlyA_keepsBut {i : Instr} {d : Operand} {s t : State} (hi : storesOnlyA i = some d)
    (h : exec i s = .next t) : KeepsBut (fun x => destinationCell d s = some x) s t := by
  obtain ⟨opc, dB, rule, hexec, hwrites, hrule⟩ := exec_of_storesOnlyA hi
  rw [hexec] at h
  exact runInstr_keepsBut h fun a b _ x hA _ => hrule _ a b x fun _ hn => destinationCell_of_resolve hwrites hA hn

/-- Settles O52, by the frame of a store to operand A; both clauses on cells are readings of it. -/
theorem frameOfStoresToA : Obligations.FrameOfStoresToA := by
  intro i d s t hi h
  obtain ⟨hcells, hstack, hip, hfix⟩ := exec_storesOnlyA_keepsBut hi h
  refine ⟨fun c hc x hx => hcells x fun hd => hx ?_, fun hnone x _ => hcells x fun hd => ?_, hstack, hip, hfix⟩
  · exact Option.some.inj (hd.symm.trans hc)
  · cases hnone.symm.trans hd

end Sys2Proof.Machine
end

section
/-! PROOFS of the family 40_execution_cycle.md, the step: what each way through the step does, the fetch, the commit and
its costs, and the owed cycles. -/

namespace Sys2Proof.Machine

/-! ### The ways through the step -/

/-- A disabled step (40_execution_cycle.md R151). -/
theorem step_disabled {s : State} (h : s.beginStep.now.disabled = true) :
    step s = .next { s.beginStep with outcome := some .stopped } := by
  rw [step, cycle, if_pos h]

/-- A step that spends an owed cycle (40_execution_cycle.md R152). -/
theorem step_idle {s : State} (h : s.beginStep.now.disabled = false) (hpen : 0 < s.penalty) :
    step s = .next { s.beginStep with penalty := s.penalty - 1, outcome := some .idle } := by
  rw [step, cycle, if_neg (by simp [h]), if_pos (by simpa using hpen), beginStep_penalty]

/-- A step that fetches runs what the record decodes to, at the state after the fetch (40_execution_cycle.md R153). -/
theorem step_fetch {s : State} {r : Record} (h : s.beginStep.now.disabled = false) (hpen : s.penalty = 0)
    (hr : s.prog[s.ip]? = some r) : step s = runDecoded (decode r) s.beginStep.fetched := by
  rw [step, cycle, if_neg (by simp [h]), if_neg (by simp [hpen]), beginStep_prog, beginStep_ip, hr]

/-- Beginning a step changes only the model's own record of the host's answers and calls. -/
theorem beginStep_eq (s : State) : ∃ now pending,
    s.beginStep = { s with now := now, pending := pending, hostClock := s.hostClock + 1, calls := [.disabled] } := by
  unfold State.beginStep
  split
  · exact ⟨_, s.pending, rfl⟩
  · exact ⟨_, _, rfl⟩

/-- A step takes the first of the given answers. -/
theorem beginStep_cons {s : State} {h : HostAnswers} {l : List HostAnswers} (hp : s.pending = h :: l) :
    s.beginStep = { s with now := h, pending := l, hostClock := s.hostClock + 1, calls := [.disabled] } := by
  rw [State.beginStep, hp]

/-! ### The fetch -/

theorem fetched_cell (s : State) (c : Nat) :
    s.fetched.cell c =
      if c = 13 then s.now.shadow.c13 else if c = 12 then s.now.shadow.c12 else if c = 11 then s.now.shadow.c11
      else if c = 10 then s.now.shadow.c10 else if c = 9 then s.now.shadow.c9 else if c = 8 then s.now.shadow.c8
      else s.cell c := by
  have hstores : s.fetched.cell c =
      ((((((s.setCell 8 s.now.shadow.c8).setCell 9 s.now.shadow.c9).setCell 10 s.now.shadow.c10).setCell 11
        s.now.shadow.c11).setCell 12 s.now.shadow.c12).setCell 13 s.now.shadow.c13).cell c := rfl
  simp only [hstores, cell_setCell]

/-- The fetch changes no cell outside the shadow cells (40_execution_cycle.md R154). -/
theorem fetched_sameCellsBut (s : State) : SameCellsBut (fun c => 8 ≤ c ∧ c ≤ 13) s s.fetched := by
  intro c hc
  rw [fetched_cell]
  split_ifs
  on_goal 7 => rfl
  all_goals omega

/-! ### The opcode field in memory -/

theorem operandAddress_levelZero {d : Operand} (h : d.level = 0) (s : State) : operandAddress d s = .ok none s := by
  simp only [operandAddress, h]

theorem operandAddress_levelOne {d : Operand} (h : d.level = 1) (s : State) :
    operandAddress d s = .ok (some d.value.toInt) s := by
  simp only [operandAddress, h]

theorem operandAddress_levelTwo {d : Operand} (h : d.level = 2) (s : State) :
    operandAddress d s = (memRead d.value.toInt s).bind fun p t => .ok (some p.toInt) t := by
  simp only [operandAddress, h]

theorem level_cases (d : Operand) : d.level = 0 ∨ d.level = 1 ∨ d.level = 2 := by
  unfold Operand.level
  split_ifs <;> simp

/-- At an address, an operand's value is the word read there (40_execution_cycle.md R163). -/
theorem operandValue_ok {d : Operand} {a : Int} {s t : State} {v : Word} (h : memRead a s = .ok v t) :
    operandValue d (some a) s = .ok v.toInt t := by
  simp [operandValue, h]

theorem operandValue_raise {d : Operand} {a : Int} {s t : State} {e : RuntimeError} (h : memRead a s = .raise e t) :
    operandValue d (some a) s = .raise e t := by
  simp [operandValue, h]

/-- The opcode field at level 1 or 2 is the word the one or two reads give (40_execution_cycle.md R157). -/
theorem resolveOpcode_ok {d : Operand} {s t : State} {opc : Word}
    (h : (d.level = 1 ∧ memRead d.value.toInt s = .ok opc t) ∨
      (d.level = 2 ∧ ∃ (p : Word) (u : State), memRead d.value.toInt s = .ok p u ∧ memRead p.toInt u = .ok opc t)) :
    resolveOpcode d s = .ok opc.toInt t := by
  obtain ⟨hlevel, hv⟩ | ⟨hlevel, p, u, hp, hv⟩ := h
  · rw [resolveOpcode, operandAddress_levelOne hlevel, Res.bind_ok, operandValue_ok hv]
  · rw [resolveOpcode, operandAddress_levelTwo hlevel, hp, Res.bind_ok, Res.bind_ok, operandValue_ok hv]

theorem ofNumber_natCast (o : Opcode) : Opcode.ofNumber (o.number : Int) = some o := by
  cases o <;> rfl

/-- No opcode has a number outside 0 to 46 (30_encoding.md R122). -/
theorem ofNumber_outside {n : Int} (h : n < 0 ∨ 46 < n) : Opcode.ofNumber n = none := by
  unfold Opcode.ofNumber
  split
  · rfl
  · have hlen : Opcode.table.length = 47 := rfl
    exact List.getElem?_eq_none (by omega)

theorem runDecoded_reservedOpcodeNibble (w0 : Word) (s : State) :
    runDecoded (.reject (.reservedOpcodeNibble w0)) s = .next (s.runtimeError none none ⟨6, some w0.toInt⟩) := rfl

theorem runDecoded_unknownOpcode (opc : Word) (s : State) :
    runDecoded (.reject (.unknownOpcode opc)) s = .next (s.runtimeError none none ⟨6, some opc.toInt⟩) := rfl

theorem runDecoded_opcodeInMemory_ok {d0 dA dB : Operand} {s t : State} {n : Int} {o : Opcode}
    (h : resolveOpcode d0 s = .ok n t) (ho : Opcode.ofNumber n = some o) :
    runDecoded (.opcodeInMemory d0 dA dB) s = exec (o.instr dA dB) t := by
  simp only [runDecoded, h, ho]

theorem runDecoded_opcodeInMemory_unknown {d0 dA dB : Operand} {s t : State} {n : Int}
    (h : resolveOpcode d0 s = .ok n t) (ho : Opcode.ofNumber n = none) :
    runDecoded (.opcodeInMemory d0 dA dB) s = .next (t.runtimeError none none ⟨6, some n⟩) := by
  simp only [runDecoded, h, ho]
  rfl

theorem runDecoded_opcodeInMemory_raise {d0 dA dB : Operand} {s t : State} {e : RuntimeError}
    (h : resolveOpcode d0 s = .raise e t) :
    runDecoded (.opcodeInMemory d0 dA dB) s = .next (t.runtimeError none none e) := by
  simp only [runDecoded, h]

/-- A fault without a known opcode costs 1 (40_execution_cycle.md R175). -/
theorem runtimeError_none {s : State} {cur : Nat} (h : s.prevIp = cur) (e : RuntimeError) :
    s.runtimeError none none e = { s with penalty := 1, micro := 0, outcome := some (.faulted cur e) } := by
  subst h
  rfl

theorem ReadsOnly.prevIp {s t : State} (h : ReadsOnly s t) : t.prevIp = s.prevIp := by
  obtain ⟨as, rfl⟩ := h
  rfl

/-! ### The costs -/

theorem isConditionalJump_iff (opc : Opcode) :
    isConditionalJump opc = true ↔ opc ∈ [Opcode.jls, .jgr, .jne, .jeq, .jz, .jnz, .jae, .jbe] := by
  cases opc <;> simp [isConditionalJump]

theorem documentCost_of_ne_delay {opc : Opcode} (h : opc ≠ .delay) (a : Int) :
    documentCost opc a = if isConditionalJump opc then 0 else 1 := by
  cases opc with
  | delay => exact absurd rfl h
  | _ => rfl

/-- Without cost tables an instruction costs what the document says (40_execution_cycle.md R174). -/
theorem penaltyOf_default_some {p : Params} (hopc : p.opcodeCost = []) (harg : p.argCost = []) (opc : Opcode)
    (a : Int) : penaltyOf p opc (some a) = documentCost opc a := by
  rw [penaltyOf_some, hopc, harg, lookupCost, lookupCost]

theorem penaltyOf_default_none {p : Params} (hopc : p.opcodeCost = []) (opc : Opcode) :
    penaltyOf p opc none = if isArgumentCosted opc then 1 else documentCost opc 0 := by
  rw [penaltyOf, hopc, lookupCost]

/-- Without cost tables only the conditional jumps are free, and only DELAY's cost depends on its argument. -/
theorem penaltyOf_default_of_ne_delay {p : Params} (hopc : p.opcodeCost = []) (harg : p.argCost = []) {opc : Opcode}
    (h : opc ≠ .delay) (arg : Option Int) : penaltyOf p opc arg = if isConditionalJump opc then 0 else 1 := by
  cases arg with
  | some a => rw [penaltyOf_default_some hopc harg, documentCost_of_ne_delay h]
  | none =>
    rw [penaltyOf_default_none hopc, documentCost_of_ne_delay h]
    cases opc <;> rfl

/-! ### The owed cycles -/

/-- The state after an owed cycle whose answer `h` was given, with the answers `l` after it. -/
def State.afterOwed (s : State) (h : HostAnswers) (l : List HostAnswers) : State :=
  { s with
    now := h, pending := l, hostClock := s.hostClock + 1, calls := [.disabled], penalty := s.penalty - 1
    outcome := some .idle }

theorem step_owed {s : State} {h : HostAnswers} {l : List HostAnswers} (hp : s.pending = h :: l)
    (hdis : h.disabled = false) (hpen : 0 < s.penalty) : step s = .next (s.afterOwed h l) := by
  have hbegin := beginStep_cons hp
  rw [step_idle (by rw [hbegin, hdis]) hpen, hbegin]
  rfl

theorem run_succ_of_step {s t : State} (h : step s = .next t) (n : Nat) : core.run (n + 1) s = core.run n t := by
  have hcore : core.step s = .next t := h
  simp only [Host.Core.run, hcore]

/-! ### The obligations of the step -/

/-- Settles O7: a step that fetches runs the decoded record. -/
theorem stepRunsDecodedInstruction : Obligations.StepRunsDecodedInstruction := by
  intro s r i hdis hpen hr hi
  rw [step_fetch hdis hpen hr, hi, runDecoded]

/-- Settles O8, by what the reads of the opcode field give. -/
theorem stepRunsOpcodeFromMemory : Obligations.StepRunsOpcodeFromMemory := by
  intro s t r d0 dA dB opc o hdis hpen hr hdec ho hread
  have hopc : Opcode.ofNumber opc.toInt = some o := by rw [ho, ofNumber_natCast]
  rw [step_fetch hdis hpen hr, hdec, runDecoded_opcodeInMemory_ok (resolveOpcode_ok hread) hopc]

/-- Settles O9: each kind of opcode field without an instruction ends in a fault without a known opcode. -/
theorem opcodeFieldFaults : Obligations.OpcodeFieldFaults := by
  intro s r hdis hpen hr
  have hfetch : s.beginStep.fetched.prevIp = s.ip := beginStep_ip s
  rw [step_fetch hdis hpen hr]
  refine ⟨fun w0 hd => ?_, fun opc hd => ?_, fun d0 dA dB e t hd he => ?_, fun d0 dA dB opc t hd hopc hout => ?_⟩
  · rw [hd, runDecoded_reservedOpcodeNibble, runtimeError_none hfetch]
  · rw [hd, runDecoded_unknownOpcode, runtimeError_none hfetch]
  · have hread := (resolveOpcode_readsOnly d0 _).of_raise he
    rw [hd, runDecoded_opcodeInMemory_raise he, runtimeError_none (hread.prevIp.trans hfetch)]
  · have hread := (resolveOpcode_readsOnly d0 _).of_ok hopc
    rw [hd, runDecoded_opcodeInMemory_unknown hopc (ofNumber_outside hout),
      runtimeError_none (hread.prevIp.trans hfetch)]

/-- Settles O10, by the equations of the disabled and of the idle step. -/
theorem stoppedAndIdleSteps : Obligations.StoppedAndIdleSteps :=
  fun s => ⟨step_disabled, step_idle, beginStep_eq s⟩

/-- Settles O11, by the fetch's value at each field and cell. -/
theorem fetchAdvancesAndRefreshes : Obligations.FetchAdvancesAndRefreshes := by
  intro s
  refine ⟨rfl, rfl, ?_, ?_, ?_, ?_, ?_, ?_, fetched_sameCellsBut s, rfl, rfl, rfl, rfl, rfl⟩ <;>
    rw [fetched_cell] <;> rfl

/-- Settles O12: the commit's three cases, and the definitions of the two ends of an instruction. -/
theorem commitChargesAndCounts : Obligations.CommitChargesAndCounts := by
  refine ⟨fun s c => ⟨fun hc hlt => ?_, fun hc hle => ?_, fun hc => ?_⟩, fun _ _ _ => rfl, fun _ _ _ _ => rfl,
    fun _ _ _ => ⟨rfl, rfl⟩⟩
  · rw [State.commit, if_pos hc, if_neg (show ¬ microLimit ≤ s.micro + 1 from Nat.not_le.mpr hlt)]
  · rw [State.commit, if_pos hc, if_pos (show microLimit ≤ s.micro + 1 from hle)]
  · rw [State.commit, if_neg hc]

/-- Settles O13, by the default cost of DELAY and of every other opcode. -/
theorem defaultCosts : Obligations.DefaultCosts := by
  refine ⟨fun p opc arg hopc harg => ⟨fun hjump => ?_, ?_, ?_, fun hother => ?_, rfl⟩, fun p opc hmem => ?_⟩
  · have hne : opc ≠ .delay := by rintro rfl; simp at hjump
    rw [penaltyOf_default_of_ne_delay hopc harg hne, if_pos ((isConditionalJump_iff opc).mpr hjump)]
  · rintro rfl a rfl
    rw [penaltyOf_default_some hopc harg, documentCost]
    omega
  · rintro rfl rfl
    rfl
  · have hne : opc ≠ .delay := by rintro rfl; simp at hother
    have hjump : ¬ isConditionalJump opc = true := fun h =>
      hother (List.mem_append_left [Opcode.delay] ((isConditionalJump_iff opc).mp h))
    rw [penaltyOf_default_of_ne_delay hopc harg hne, if_neg hjump]
  · have hcosted : isArgumentCosted opc = true := by
      simp only [List.mem_cons, List.not_mem_nil, or_false] at hmem
      obtain rfl | rfl | rfl | rfl := hmem <;> rfl
    rw [penaltyOf, if_pos hcosted]

/-- Settles O14, by induction on the cycles owed: one idle step takes one answer and leaves one cycle less. -/
theorem owedCyclesAreIdle : Obligations.OwedCyclesAreIdle := by
  intro n
  induction n with
  | zero =>
    intro s hpen _ _
    exact ⟨s, rfl, hpen, rfl, rfl, rfl, rfl, rfl, rfl, rfl, fun h => absurd h (Nat.lt_irrefl 0)⟩
  | succ n ih =>
    intro s hpen hlen hhost
    obtain ⟨h, l, hp⟩ := List.exists_cons_of_length_pos (Nat.zero_lt_of_lt hlen)
    rw [hp] at hlen hhost
    have hstep := step_owed hp (hhost h List.mem_cons_self) (by omega)
    obtain ⟨t, hrun, hpen', hmem, hstack, hip, hprev, hmicro, hprog, hpending, hout⟩ :=
      ih (s.afterOwed h l) (Nat.sub_eq_of_eq_add hpen) (Nat.le_of_succ_le_succ hlen) fun x hx =>
        hhost x (List.mem_cons_of_mem h hx)
    refine ⟨t, (run_succ_of_step hstep n).trans hrun, hpen', hmem, hstack, hip, hprev, hmicro, hprog, ?_, fun _ => ?_⟩
    · rw [hp, List.drop_succ_cons]
      exact hpending
    · cases n with
      | zero => cases hrun; rfl
      | succ n => exact hout (Nat.succ_pos n)

/-- Settles O51: a label marker's meaning is the outcome alone. -/
theorem labelMarkersSkip : Obligations.LabelMarkersSkip := fun _ _ _ => ⟨rfl, rfl⟩

end Sys2Proof.Machine
end

section
/-! PROOFS of the family 40_execution_cycle.md, the operands. Each usage has one equation over the parts of the
resolution, and the usages `r` and `rw` are the usage `jump` with the label's entry, and then the write check,
after it. -/

namespace Sys2Proof.Machine

/-! ### One equation per usage -/

section
variable {d : Operand} {s : State}

theorem resolve_reserved (h : d.isReserved = true) {u : Usage} (hu : u ≠ .none) :
    resolve d u s = .raise ⟨6, some d.value.toInt⟩ s := by
  rw [resolve, if_neg hu, if_pos h]
  rfl

theorem resolve_jump (h : d.isReserved = false) :
    resolve d .jump s = (operandAddress d s).bind fun addr t => (operandValue d addr t).bind fun v x =>
      .ok ⟨addr, some v⟩ x := by
  simp [resolve, h]

theorem resolve_w (h : d.isReserved = false) :
    resolve d .w s = (operandAddress d s).bind fun addr t => (checkDestination d addr t).bind fun _ x =>
      .ok ⟨addr, none⟩ x := by
  simp [resolve, h]

theorem resolve_addr (h : d.isReserved = false) :
    resolve d .addr s = (operandAddress d s).bind fun addr t =>
      (labelEntry d.jumpKind (addr.getD d.value.toInt) t).bind fun b x => .ok ⟨some b, none⟩ x := by
  simp [resolve, h]

/-- A read operand is a jump operand whose value is replaced by its label's entry (40_execution_cycle.md R164, R167). -/
theorem resolve_r : resolve d .r s = (resolve d .jump s).bind fun x t =>
    (labelEntry d.jumpKind x.value t).bind fun v y => .ok ⟨x.addr, some v⟩ y := by
  cases h : d.isReserved with
  | true => simp [resolve_reserved h]
  | false =>
    rw [resolve_jump h]
    simp only [resolve, h, reduceCtorEq, Bool.false_eq_true, if_false]
    cases operandAddress d s with
    | raise e t => rfl
    | ok addr t => cases hv : operandValue d addr t <;> simp [hv, Resolved.value]

/-- A read destination is that with the write check after it (40_execution_cycle.md R165). -/
theorem resolve_rw : resolve d .rw s = (resolve d .r s).bind fun x t =>
    (checkDestination d x.addr t).bind fun _ y => .ok x y := by
  cases h : d.isReserved with
  | true => simp [resolve_reserved h]
  | false =>
    simp only [resolve, h, reduceCtorEq, Bool.false_eq_true, if_false]
    cases operandAddress d s with
    | raise e t => rfl
    | ok addr t =>
      cases hv : operandValue d addr t with
      | raise e x => simp [hv]
      | ok v x => cases hl : labelEntry d.jumpKind v x <;> simp [hv, hl]

theorem resolve_r_of_jump {addr : Option Int} {n : Int} {t : State} (h : resolve d .jump s = .ok ⟨addr, some n⟩ t) :
    resolve d .r s = (labelEntry d.jumpKind n t).bind fun v y => .ok ⟨addr, some v⟩ y := by
  rw [resolve_r, h]
  rfl

/-- Without a jump flag the value read is the raw one. -/
theorem resolve_r_of_jumpKind_none {addr : Option Int} {n : Int} {t : State} (hk : d.jumpKind = .none)
    (h : resolve d .jump s = .ok ⟨addr, some n⟩ t) : resolve d .r s = .ok ⟨addr, some n⟩ t := by
  rw [resolve_r_of_jump h, hk]
  rfl

/-- A fault of the reads is the operand's under every usage that reads. -/
theorem resolve_raise_of_jump {u : Usage} (hu : u = .jump ∨ u = .r ∨ u = .rw) {e : RuntimeError} {t : State}
    (h : resolve d .jump s = .raise e t) : resolve d u s = .raise e t := by
  obtain rfl | rfl | rfl := hu
  · exact h
  · rw [resolve_r, h, Res.bind_raise]
  · rw [resolve_rw, resolve_r, h, Res.bind_raise, Res.bind_raise]

end

/-! ### What a jump operand reads at each level -/

section
variable {d : Operand} {s t : State}

theorem resolve_jump_levelZero (h : d.isReserved = false) (hlevel : d.level = 0) :
    resolve d .jump s = .ok ⟨none, some d.value.toInt⟩ s := by
  rw [resolve_jump h, operandAddress_levelZero hlevel]
  rfl

/-- The operand's address is the word at level 1 and what it points to at level 2 (40_execution_cycle.md R162). -/
theorem operandAddress_ok {a : Int}
    (h : (d.level = 1 ∧ a = d.value.toInt ∧ t = s) ∨
      (d.level = 2 ∧ ∃ p : Word, a = p.toInt ∧ memRead d.value.toInt s = .ok p t)) :
    operandAddress d s = .ok (some a) t := by
  obtain ⟨hlevel, rfl, rfl⟩ | ⟨hlevel, p, rfl, hp⟩ := h
  · exact operandAddress_levelOne hlevel t
  · rw [operandAddress_levelTwo hlevel, hp, Res.bind_ok]

theorem operandAddress_raise (hlevel : d.level = 2) {e : RuntimeError} (h : memRead d.value.toInt s = .raise e t) :
    operandAddress d s = .raise e t := by
  rw [operandAddress_levelTwo hlevel, h, Res.bind_raise]

theorem resolve_jump_ok (h : d.isReserved = false) {a : Int} {x : State} {v : Word}
    (ha : operandAddress d s = .ok (some a) t) (hv : memRead a t = .ok v x) :
    resolve d .jump s = .ok ⟨some a, some v.toInt⟩ x := by
  rw [resolve_jump h, ha, Res.bind_ok, operandValue_ok hv, Res.bind_ok]

theorem resolve_jump_raise_value (h : d.isReserved = false) {a : Int} {x : State} {e : RuntimeError}
    (ha : operandAddress d s = .ok (some a) t) (hv : memRead a t = .raise e x) :
    resolve d .jump s = .raise e x := by
  rw [resolve_jump h, ha, Res.bind_ok, operandValue_raise hv, Res.bind_raise]

theorem resolve_jump_raise_address (h : d.isReserved = false) {e : RuntimeError}
    (ha : operandAddress d s = .raise e t) : resolve d .jump s = .raise e t := by
  rw [resolve_jump h, ha, Res.bind_raise]

end

/-! ### The labels -/

theorem lookupLabel_defined {table : List (Option Nat)} {n : Int} {k : Nat} (h0 : 0 ≤ n)
    (h : table[n.toNat]? = some (some k)) : lookupLabel table n = some k := by
  rw [lookupLabel, if_neg (not_lt.mpr h0), h]
  rfl

theorem lookupLabel_undefined {table : List (Option Nat)} {n : Int} (h : n < 0 ∨ (table[n.toNat]?).join = none) :
    lookupLabel table n = none := by
  unfold lookupLabel
  split
  · rfl
  · next hneg => exact h.resolve_left hneg

section
variable {s : State} {n : Int}

theorem labelEntry_numeric_defined {k : Nat} (h0 : 0 ≤ n) (h : s.numTable[n.toNat]? = some (some k)) :
    labelEntry .numeric n s = .ok (k : Int) s := by
  simp only [labelEntry, numLookup, lookupLabel_defined h0 h, Res.bind_ok]

theorem labelEntry_numeric_undefined (h : n < 0 ∨ (s.numTable[n.toNat]?).join = none) :
    labelEntry .numeric n s = .raise ⟨2, some n⟩ s := by
  simp only [labelEntry, numLookup, lookupLabel_undefined h, Res.bind_raise]
  rfl

theorem labelEntry_symbolic_defined {k : Nat} (h0 : 0 ≤ n) (h : s.alnumTable[n.toNat]? = some (some k)) :
    labelEntry .symbolic n s = .ok (k : Int) s := by
  simp only [labelEntry, alnumLookup, lookupLabel_defined h0 h, Res.bind_ok]

theorem labelEntry_symbolic_undefined (h : n < 0 ∨ (s.alnumTable[n.toNat]?).join = none) :
    labelEntry .symbolic n s = .raise ⟨9, some n⟩ s := by
  simp only [labelEntry, alnumLookup, lookupLabel_undefined h, Res.bind_raise]
  rfl

/-- What follows a jump-flagged value's replacement goes on from the label's entry, or faults with 2 or 9 and the value
(40_execution_cycle.md R164, R166). -/
theorem bind_labelEntry (kind : JumpKind) (n : Int) (s : State) (f : Int → State → Res Resolved) :
    (kind = .none → (labelEntry kind n s).bind f = f n s) ∧
    (kind = .numeric →
      (∀ k : Nat, 0 ≤ n → s.numTable[n.toNat]? = some (some k) → (labelEntry kind n s).bind f = f k s) ∧
      (n < 0 ∨ (s.numTable[n.toNat]?).join = none → (labelEntry kind n s).bind f = .raise ⟨2, some n⟩ s)) ∧
    (kind = .symbolic →
      (∀ k : Nat, 0 ≤ n → s.alnumTable[n.toNat]? = some (some k) → (labelEntry kind n s).bind f = f k s) ∧
      (n < 0 ∨ (s.alnumTable[n.toNat]?).join = none → (labelEntry kind n s).bind f = .raise ⟨9, some n⟩ s)) := by
  refine ⟨?_, ?_, ?_⟩ <;> rintro rfl
  · rfl
  · refine ⟨fun k h0 hdef => ?_, fun hundef => ?_⟩
    · rw [labelEntry_numeric_defined h0 hdef, Res.bind_ok]
    · rw [labelEntry_numeric_undefined hundef, Res.bind_raise]
  · refine ⟨fun k h0 hdef => ?_, fun hundef => ?_⟩
    · rw [labelEntry_symbolic_defined h0 hdef, Res.bind_ok]
    · rw [labelEntry_symbolic_undefined hundef, Res.bind_raise]

end

theorem ReadsOnly.tables {s t : State} (h : ReadsOnly s t) :
    t.numTable = s.numTable ∧ t.alnumTable = s.alnumTable ∧ t.prog = s.prog := by
  obtain ⟨as, rfl⟩ := h
  exact ⟨rfl, rfl, rfl⟩

/-! ### The write check -/

section
variable {a : Int} {s : State}

theorem checkWritable_cell (h : 0 ≤ a) (h' : a < 1024) : checkWritable a s = .ok () s := by
  have hw := memWrite_cell 0 s h h'
  obtain ⟨_, t, hc, -⟩ := Res.bind_eq_ok.mp hw
  rwa [(checkWritable_ok hc).1] at hc

theorem checkWritable_mirror (h : 1024 ≤ a) (h' : a < 1024 + 4 * (s.prog.length : Int)) :
    checkWritable a s = .raise ⟨3, some a⟩ s := by
  simpa [memWrite, Res.bind_eq_raise] using memWrite_mirror 0 h h'

theorem checkWritable_outside (h : a < 0 ∨ 1024 + 4 * (s.prog.length : Int) ≤ a) :
    checkWritable a s = .raise ⟨4, some a⟩ s := by
  simpa [memWrite, Res.bind_eq_raise] using memWrite_outside 0 h

end

section
variable {d : Operand} {s t : State} {a : Int}

/-- With usage `w` the check is all that follows the address (40_execution_cycle.md R165). -/
theorem resolve_w_of_address (h : d.isReserved = false) (ha : operandAddress d s = .ok (some a) t) :
    resolve d .w s = (checkWritable a t).bind fun _ x => .ok ⟨some a, none⟩ x := by
  rw [resolve_w h, ha]
  rfl

/-- With usage `rw` and no jump flag the value is read before the check. -/
theorem resolve_rw_of_read (h : d.isReserved = false) (hk : d.jumpKind = .none)
    (ha : operandAddress d s = .ok (some a) t) {v : Word} {x : State} (hv : memRead a t = .ok v x) :
    resolve d .rw s = (checkWritable a x).bind fun _ y => .ok ⟨some a, some v.toInt⟩ y := by
  rw [resolve_rw, resolve_r_of_jumpKind_none hk (resolve_jump_ok h ha hv)]
  rfl

/-- Under both usages a mirror address is refused as read-only. -/
theorem resolve_destination_mirror (h : d.isReserved = false) (ha : operandAddress d s = .ok (some a) t)
    (hmax : a ≤ 32767) {u : Usage} (hu : u = .w ∨ (u = .rw ∧ d.jumpKind = .none)) (hlo : 1024 ≤ a)
    (hhi : a < 1024 + 4 * (t.prog.length : Int)) : resolve d u s = .raise ⟨3, some a⟩ t := by
  obtain rfl | ⟨rfl, hk⟩ := hu
  · rw [resolve_w_of_address h ha, checkWritable_mirror hlo hhi, Res.bind_raise]
  · rw [resolve_rw_of_read h hk ha (memRead_mirror hlo hmax hhi), checkWritable_mirror hlo hhi, Res.bind_raise]

/-- An unmapped address is refused by the check with usage `w`, by the read with `rw`, with the same fault. -/
theorem resolve_destination_outside (h : d.isReserved = false) (ha : operandAddress d s = .ok (some a) t)
    {u : Usage} (hu : u = .w ∨ u = .rw) (hout : a < 0 ∨ 1024 + 4 * (t.prog.length : Int) ≤ a) :
    resolve d u s = .raise ⟨4, some a⟩ t := by
  obtain rfl | rfl := hu
  · rw [resolve_w_of_address h ha, checkWritable_outside hout, Res.bind_raise]
  · have hread : memRead a t = .raise ⟨4, some a⟩ t := memRead_outside (by omega)
    exact resolve_raise_of_jump (.inr (.inr rfl)) (resolve_jump_raise_value h ha hread)

end

/-! ### The effective address -/

/-- The base of an effective address is the word at levels 0 and 1, what it points to at level 2, and its label's entry
replaces it (40_execution_cycle.md R166). -/
theorem resolve_addr_of_base {d : Operand} {s t : State} {b : Int} (h : d.isReserved = false)
    (hb : (d.level ≤ 1 ∧ b = d.value.toInt ∧ t = s) ∨
      (d.level = 2 ∧ ∃ p : Word, b = p.toInt ∧ memRead d.value.toInt s = .ok p t)) :
    resolve d .addr s = (labelEntry d.jumpKind b t).bind fun c x => .ok ⟨some c, none⟩ x := by
  rw [resolve_addr h]
  obtain ⟨hlevel, rfl, rfl⟩ | ⟨hlevel, p, rfl, hp⟩ := hb
  · obtain hlevel | hlevel : d.level = 0 ∨ d.level = 1 := by omega
    · rw [operandAddress_levelZero hlevel]
      rfl
    · rw [operandAddress_levelOne hlevel]
      rfl
  · rw [operandAddress_levelTwo hlevel, hp]
    rfl

/-! ### The obligations of the operands -/

/-- Settles O25: each level's address and value parts under `jump`, which the other reading usages begin with. -/
theorem readOperandLevels : Obligations.ReadOperandLevels := by
  intro d s
  refine ⟨fun h u hu => resolve_reserved h hu, resolve_none d s, fun h u hu => ?_, fun h u hu => ?_⟩
  · have hof {addr : Option Int} {n : Int} {t : State} (hj : resolve d .jump s = .ok ⟨addr, some n⟩ t) :
        resolve d u s = .ok ⟨addr, some n⟩ t := by
      obtain rfl | ⟨rfl, hk⟩ := hu
      · exact hj
      · exact resolve_r_of_jumpKind_none hk hj
    refine ⟨fun hlevel => hof (resolve_jump_levelZero h hlevel), fun hlevel v t hv => ?_,
      fun hlevel p t v x hp hv => ?_⟩
    · exact hof (resolve_jump_ok h (operandAddress_levelOne hlevel s) hv)
    · exact hof (resolve_jump_ok h (operandAddress_ok (.inr ⟨hlevel, p, rfl, hp⟩)) hv)
  · refine ⟨fun hlevel e t he => resolve_raise_of_jump hu ?_, fun hlevel p t e x hp he => resolve_raise_of_jump hu ?_⟩
    · obtain hzero | hone | htwo := level_cases d
      · omega
      · exact resolve_jump_raise_value h (operandAddress_levelOne hone s) he
      · exact resolve_jump_raise_address h (operandAddress_raise htwo he)
    · exact resolve_jump_raise_value h (operandAddress_ok (.inr ⟨hlevel, p, rfl, hp⟩)) he

/-- Settles O26: the read operand is the label's entry for the raw value, in tables that the reads leave as they are. -/
theorem labelOperandReadsRecordIndex : Obligations.LabelOperandReadsRecordIndex := by
  intro d s t addr n h
  obtain ⟨hnum, halnum, -⟩ := ((resolve_readsOnly d .jump s).of_ok h).tables
  rw [resolve_r_of_jump h, ← hnum, ← halnum]
  exact bind_labelEntry d.jumpKind n t _

/-- Settles O27: the address of the level, then the write check at it, after a read with usage `rw`. -/
theorem destinationLevels : Obligations.DestinationLevels := by
  refine ⟨fun d s t a h hlevel => ?_, fun d s t e u h hu hlevel he => ?_⟩
  · have ha := operandAddress_ok hlevel
    obtain ⟨-, -, hprog⟩ := ((operandAddress_readsOnly d s).of_ok ha).tables
    have hmax : a ≤ 32767 := by
      obtain ⟨-, rfl, -⟩ | ⟨-, p, rfl, -⟩ := hlevel
      · exact Int.lt_add_one_iff.mp d.value.toInt_lt
      · exact Int.lt_add_one_iff.mp p.toInt_lt
    rw [← hprog]
    refine ⟨fun h0 hlt => ?_, fun u hu => ⟨fun hlo hhi => ?_, fun hout => ?_⟩, fun v x h0 hlt hk hv => ?_⟩
    · rw [resolve_w_of_address h ha, checkWritable_cell h0 hlt, Res.bind_ok]
    · exact resolve_destination_mirror h ha hmax hu hlo hhi
    · exact resolve_destination_outside h ha (hu.imp_right And.left) hout
    · rw [resolve_rw_of_read h hk ha hv, checkWritable_cell h0 hlt, Res.bind_ok]
  · have ha := operandAddress_raise hlevel he
    obtain rfl | rfl := hu
    · rw [resolve_w h, ha, Res.bind_raise]
    · exact resolve_raise_of_jump (.inr (.inr rfl)) (resolve_jump_raise_address h ha)

/-- Settles O28: the base of the level, then its label's entry, in tables that the pointer's read leaves as they are. -/
theorem effectiveAddressLevels : Obligations.EffectiveAddressLevels := by
  refine ⟨fun d s t b h hb => ?_, fun d s t e h hlevel he => ?_⟩
  · have hreads : ReadsOnly s t := by
      obtain ⟨-, -, rfl⟩ | ⟨-, p, -, hp⟩ := hb
      · exact .refl t
      · exact (memRead_readsOnly _ s).of_ok hp
    obtain ⟨hnum, halnum, -⟩ := hreads.tables
    simp only [HasEffectiveAddress]
    rw [resolve_addr_of_base h hb, ← hnum, ← halnum]
    exact bind_labelEntry d.jumpKind b t _
  · rw [resolve_addr h, operandAddress_raise hlevel he, Res.bind_raise]

end Sys2Proof.Machine
end

section
/-! PROOFS of the family 40_execution_cycle.md, the stages around an instruction's rule: every opcode's instruction
is `runInstr` of its two operand fields, so what `runInstr` does on a refused or faulting operand is what each
opcode does. -/

namespace Sys2Proof.Machine

/-! ### The instructions by opcode -/

/-- Every instruction but the label markers is that of an opcode and two operands (30_encoding.md R120). -/
theorem eq_instr_or_marker (i : Instr) :
    (∃ (o : Opcode) (x y : Operand), i = o.instr x y) ∨
      ∃ (w : Word) (b : Bool), i = .numericLabel w b ∨ i = .symbolicLabel w b := by
  cases i with
  | numericLabel w b => exact .inr ⟨w, b, .inl rfl⟩
  | symbolicLabel w b => exact .inr ⟨w, b, .inr rfl⟩
  | _ => exact .inl ⟨_, _, _, Decoded.instr.inj ((decodeOfEncode _).symm.trans (decode_pack _ _ _))⟩

/-- The instructions of `storesOnlyA` have a destination A. -/
theorem eq_instr_of_storesOnlyA {i : Instr} {d : Operand} (h : storesOnlyA i = some d) :
    ∃ (o : Opcode) (y : Operand), i = o.instr d y ∧ (useA o).writes = true := by
  obtain ⟨o, x, y, rfl⟩ | ⟨w, b, rfl | rfl⟩ := eq_instr_or_marker i
  · obtain ⟨rfl, hw⟩ : x = d ∧ (useA o).writes = true := by
      cases o <;> cases h <;> exact ⟨rfl, rfl⟩
    exact ⟨o, y, rfl, hw⟩
  · cases h
  · cases h

theorem structurallyBad_none (d : Operand) : structurallyBad d .none = false := rfl

/-- A field that the opcode does not use has no effect (30_encoding.md R124). -/
theorem runInstr_unusedB {opc : Opcode} (h : useB opc = .none) (dA dB dB' : Operand)
    (rule : Resolved → Resolved → State → Res Unit) : runInstr opc dA dB rule = runInstr opc dA dB' rule := by
  funext s
  simp only [runInstr, structuralCheck, h, structurallyBad_none, resolve_none, Bool.false_eq_true, if_false]

theorem runInstr_unusedA {opc : Opcode} (h : useA opc = .none) (dA dA' dB : Operand)
    (rule : Resolved → Resolved → State → Res Unit) : runInstr opc dA dB rule = runInstr opc dA' dB rule := by
  funext s
  simp only [runInstr, structuralCheck, h, structurallyBad_none, resolve_none, Bool.false_eq_true, if_false]

/-- The instruction of an opcode is the stages of the step around its rule, over both operand fields. -/
theorem exec_instr (o : Opcode) (dA dB : Operand) : ∃ rule, exec (o.instr dA dB) = runInstr o dA dB rule := by
  have hB {rule} (h : useB o = .none) (hexec : exec (o.instr dA dB) = runInstr o dA .unused rule) :
      ∃ rule, exec (o.instr dA dB) = runInstr o dA dB rule :=
    ⟨rule, hexec.trans (runInstr_unusedB h dA _ dB rule)⟩
  have hAB {rule} (hA : useA o = .none) (h : useB o = .none)
      (hexec : exec (o.instr dA dB) = runInstr o .unused .unused rule) :
      ∃ rule, exec (o.instr dA dB) = runInstr o dA dB rule :=
    hB h (hexec.trans (runInstr_unusedA hA _ dA .unused rule))
  cases o with
  | nop => exact hAB (rule := fun _ _ s => .ok () s) rfl rfl rfl
  | ret => exact hAB rfl rfl rfl
  | not | call | jmp | jls | jgr | jne | jeq | doCx | loop | int | delay | push | pop | err => exact hB rfl rfl
  | inc | dec | jz | jnz | jae | jbe | neg | jtl => exact hB rfl rfl
  | _ => exact ⟨_, rfl⟩

/-! ### The structural check -/

theorem structurallyBad_of_writes {d : Operand} {u : Usage} (hu : u.writes = true)
    (hd : d.level = 0 ∨ d.jumpKind ≠ .none) : structurallyBad d u = true := by
  simpa [structurallyBad, hu] using hd

theorem structurallyBad_eq_false {d : Operand} {u : Usage}
    (h : u = .w ∨ u = .rw → d.level ≠ 0 ∧ d.jumpKind = .none) : structurallyBad d u = false := by
  cases u with
  | w | rw => simpa [structurallyBad, Usage.writes] using h
  | none | r | addr | jump => rfl

theorem structuralCheck_refusesA {o : Opcode} {dA : Operand} (dB : Operand)
    (h : structurallyBad dA (useA o) = true) : structuralCheck o dA dB = some dA.value := by
  rw [structuralCheck, if_pos h]

theorem structuralCheck_refusesB {o : Opcode} {dA dB : Operand} (hA : structurallyBad dA (useA o) = false)
    (hB : structurallyBad dB (useB o) = true) : structuralCheck o dA dB = some dB.value := by
  rw [structuralCheck, hA, if_neg Bool.false_ne_true, if_pos hB]

theorem structuralCheck_passes {o : Opcode} {dA dB : Operand} (hA : structurallyBad dA (useA o) = false)
    (hB : structurallyBad dB (useB o) = false) : structuralCheck o dA dB = none := by
  rw [structuralCheck, hA, hB]
  rfl

/-- A destination that the check refuses ends the instruction before any operand is resolved (40_execution_cycle.md
R159). -/
theorem exec_of_structuralCheck {o : Opcode} {dA dB : Operand} {w : Word} (h : structuralCheck o dA dB = some w)
    (s : State) : exec (o.instr dA dB) s = .next (s.runtimeError (some o) none ⟨3, some w.toInt⟩) := by
  obtain ⟨rule, hrule⟩ := exec_instr o dA dB
  rw [hrule]
  simp only [runInstr, h]
  rfl

/-- An operand's position decides which check refuses it: A's before B's. -/
theorem eq_instr_of_badDestination {dA dB d : Operand} {i : Instr} (hd : d.level = 0 ∨ d.jumpKind ≠ .none)
    (hi : storesOnlyA i = some d ∨ i = .pop d ∨ i = .xchg d dB ∨
      (i = .xchg dA d ∧ dA.level ≠ 0 ∧ dA.jumpKind = .none) ∨ i = .ipo dA d) :
    ∃ (o : Opcode) (x y : Operand), i = o.instr x y ∧ structuralCheck o x y = some d.value := by
  have hbad {u : Usage} (hu : u.writes = true) := structurallyBad_of_writes hu hd
  obtain hA | rfl | rfl | ⟨rfl, hA⟩ | rfl := hi
  · obtain ⟨o, y, rfl, hw⟩ := eq_instr_of_storesOnlyA hA
    exact ⟨o, d, y, rfl, structuralCheck_refusesA y (hbad hw)⟩
  · exact ⟨.pop, d, .unused, rfl, structuralCheck_refusesA _ (hbad rfl)⟩
  · exact ⟨.xchg, d, dB, rfl, structuralCheck_refusesA dB (hbad rfl)⟩
  · exact ⟨.xchg, dA, d, rfl, structuralCheck_refusesB (structurallyBad_eq_false fun _ => hA) (hbad rfl)⟩
  · exact ⟨.ipo, dA, d, rfl, structuralCheck_refusesB rfl (hbad rfl)⟩

/-- A runtime error changes what is owed and the outcome alone (60_exceptions.md R403, R404). -/
theorem runtimeError_eq (s : State) (o : Option Opcode) (arg : Option Int) (e : RuntimeError) :
    s.runtimeError o arg e = { s with
      penalty := (s.runtimeError o arg e).penalty, micro := (s.runtimeError o arg e).micro
      outcome := (s.runtimeError o arg e).outcome } := by
  rw [State.runtimeError, commit_eq]

/-! ### The faults of the resolution -/

section
variable {o : Opcode} {dA dB : Operand} {s t u : State} {e : RuntimeError}

theorem exec_of_resolveA_raise (hs : structuralCheck o dA dB = none) (hA : resolve dA (useA o) s = .raise e t) :
    exec (o.instr dA dB) s = .next (t.runtimeError (some o) none e) := by
  obtain ⟨rule, hrule⟩ := exec_instr o dA dB
  rw [hrule]
  simp only [runInstr, hs, hA]

theorem exec_of_resolveB_raise {a : Resolved} (hs : structuralCheck o dA dB = none)
    (hA : resolve dA (useA o) s = .ok a t) (hB : resolve dB (useB o) t = .raise e u) :
    exec (o.instr dA dB) s = .next (u.runtimeError (some o) a.val e) := by
  obtain ⟨rule, hrule⟩ := exec_instr o dA dB
  rw [hrule]
  simp only [runInstr, hs, hA, hB, Res.bind_raise, finish_raise]

end

/-! ### The consistency cache -/

theorem recordConsistent_opField {r : Record} (h : recordConsistent r = true) :
    r.opField.type = .literal ∧ r.opField.indirectTwo = false := by
  simp only [recordConsistent, Bool.and_eq_true, beq_iff_eq] at h
  obtain ⟨⟨htype, hlevel⟩, -⟩ := h
  refine ⟨htype, ?_⟩
  simpa [Operand.level, htype] using hlevel

theorem recordConsistent_structuralCheck {r : Record} {o : Opcode} (h : recordConsistent r = true)
    (ho : Opcode.ofNumber r.w0.toInt = some o) : structuralCheck o r.opA r.opB = none := by
  simp only [recordConsistent, ho, Bool.and_eq_true, Option.isNone_iff_eq_none] at h
  exact h.2

/-! ### The obligations of the stages -/

/-- Settles O29: the check refuses the destination, and the fault it ends in leaves all but what is owed. -/
theorem nonIndirectDestinationFaults : Obligations.NonIndirectDestinationFaults := by
  intro dA dB s i d hd hi
  obtain ⟨o, x, y, rfl, hcheck⟩ := eq_instr_of_badDestination hd hi
  have hexec := exec_of_structuralCheck hcheck s
  exact ⟨⟨o, x, y, rfl, hexec⟩, _, hexec, rfl, runtimeError_eq s _ _ _⟩

/-- Settles O30, by the stages of the step around each opcode's rule. -/
theorem operandFaultsEndTheInstruction : Obligations.OperandFaultsEndTheInstruction := by
  intro o dA dB s hA hB
  have hs := structuralCheck_passes (structurallyBad_eq_false hA) (structurallyBad_eq_false hB)
  exact ⟨fun _ _ => exec_of_resolveA_raise hs, fun _ _ _ _ => exec_of_resolveB_raise hs⟩

/-- Settles O59: a consistent record is a literal opcode field whose check passes. -/
theorem consistencyCacheAgrees : Obligations.ConsistencyCacheAgrees := by
  intro prog n r hall hr o ho
  have hcons : recordConsistent r = true := List.all_eq_true.mp hall r (List.mem_of_getElem? hr)
  have hopc : Opcode.ofNumber r.w0.toInt = some o := by rw [ho, ofNumber_natCast]
  obtain ⟨htype, htwo⟩ := recordConsistent_opField hcons
  refine ⟨?_, recordConsistent_structuralCheck hcons hopc⟩
  rw [decode_level_zero htype htwo, decodeNumber, hopc]

end Sys2Proof.Machine
end

section
/-! PROOFS of the family 40_execution_cycle.md, the host's calls. One relation, `CallsInOrder`, says of two states that
the second came from the first by shunt reads and then at most one port or interrupt call. Every rule keeps it, reads
before it keep it, and the stages of the step make no call of their own but `Host.disabled` and `Host.shadow`. -/

namespace Sys2Proof.Machine

/-- At most one port or interrupt call (40_execution_cycle.md R179). -/
def AtMostOneCall (last : List HostCall) : Prop :=
  last = [] ∨ (∃ p, last = [.portIn p]) ∨ (∃ p v, last = [.portOut p v]) ∨ ∃ n regs, last = [.interrupt n regs]

/-- From `s` to `t` the host was asked shunt reads and then at most one port or interrupt call. -/
def CallsInOrder (s t : State) : Prop :=
  ∃ (as : List Int) (last : List HostCall), t.calls = s.calls ++ as.map HostCall.shuntRead ++ last ∧ AtMostOneCall last

section
variable {s t u : State}

theorem CallsInOrder.of_readsOnly (h : ReadsOnly s t) : CallsInOrder s t := by
  obtain ⟨as, has⟩ := h.calls
  exact ⟨as, [], by rw [has, List.append_nil], .inl rfl⟩

theorem CallsInOrder.of_calls_eq (h : t.calls = s.calls) : CallsInOrder s t :=
  ⟨[], [], by simp [h], .inl rfl⟩

theorem CallsInOrder.of_call {c : HostCall} (h : t.calls = s.calls ++ [c]) (hc : AtMostOneCall [c]) :
    CallsInOrder s t :=
  ⟨[], [c], by simp [h], hc⟩

/-- Reads come before the other calls. -/
theorem CallsInOrder.after_reads (h : ReadsOnly s t) (h' : CallsInOrder t u) : CallsInOrder s u := by
  obtain ⟨as, has⟩ := h.calls
  obtain ⟨bs, last, hbs, hlast⟩ := h'
  exact ⟨as ++ bs, last, by simp [hbs, has], hlast⟩

theorem CallsInOrder.bind {α β : Type} {r : Res α} {f : α → State → Res β} (h : ReadsOnly s r.state)
    (hf : ∀ a t, CallsInOrder t (f a t).state) : CallsInOrder s (r.bind f).state := by
  cases r with
  | ok a t => exact .after_reads h (hf a t)
  | raise e t => exact .of_readsOnly h

theorem CallsInOrder.congr_calls (h : CallsInOrder s t) (hu : u.calls = t.calls) : CallsInOrder s u := by
  obtain ⟨as, last, hcalls, hlast⟩ := h
  exact ⟨as, last, hu.trans hcalls, hlast⟩

end

/-! ### The shared rules that make no call -/

theorem calls_bind {α β : Type} {r : Res α} {f : α → State → Res β} {l : List HostCall} (h : r.state.calls = l)
    (hf : ∀ a t, (f a t).state.calls = t.calls) : (r.bind f).state.calls = l := by
  cases r with
  | ok a t => exact (hf a t).trans h
  | raise e t => exact h

theorem writeBack_calls (x : Resolved) (v : Word) (s : State) : (writeBack x v s).state.calls = s.calls := by
  unfold writeBack; split <;> rfl

theorem memWrite_calls (a : Int) (v : Word) (s : State) : (memWrite a v s).state.calls = s.calls :=
  calls_bind (congrArg State.calls (checkWritable_state a s)) fun _ _ => rfl

theorem pushWord_calls (v : Word) (s : State) : (pushWord v s).state.calls = s.calls := by
  unfold pushWord; split <;> rfl

theorem popWord_calls (s : State) : (popWord s).state.calls = s.calls := by
  unfold popWord; split <;> rfl

theorem jumpTarget_calls (d : Operand) (n : Int) (s : State) : (jumpTarget d n s).state.calls = s.calls :=
  congrArg State.calls (jumpTarget_state d n s)

theorem jumpTo_calls (d : Operand) (n : Int) (s : State) : (jumpTo d n s).state.calls = s.calls :=
  calls_bind (jumpTarget_calls d n s) fun _ _ => rfl

/-! ### The rules that call the host -/

theorem portIn_calls (p : Int) (s : State) : (portIn p s).state.calls = s.calls ++ [.portIn p] := by
  unfold portIn; split <;> rfl

theorem portOut_calls (p v : Int) (s : State) : (portOut p v s).state.calls = s.calls ++ [.portOut p v] := by
  unfold portOut; split <;> rfl

theorem hostInterrupt_calls (n : Int) (s : State) :
    (hostInterrupt n s).state.calls = s.calls ++ [.interrupt n s.registers] := by
  unfold hostInterrupt; split <;> simp

/-! ### The rules of the instructions -/

/-- The rule makes shunt reads and then at most one port or interrupt call, whatever its operands resolved to. -/
def RuleCalls (rule : Resolved → Resolved → State → Res Unit) : Prop :=
  ∀ a b s, CallsInOrder s (rule a b s).state

/-- The rule makes no call. -/
def RuleSilent (rule : Resolved → Resolved → State → Res Unit) : Prop :=
  ∀ a b s, (rule a b s).state.calls = s.calls

theorem RuleSilent.ruleCalls {rule : Resolved → Resolved → State → Res Unit} (h : RuleSilent rule) : RuleCalls rule :=
  fun a b s => .of_calls_eq (h a b s)

theorem writeBackA_silent (v : Resolved → Resolved → State → Word) : RuleSilent fun a b s => writeBack a (v a b s) s :=
  fun a _ s => writeBack_calls a _ s

theorem writeA_silent (f : Int → Int → Word) : RuleSilent (writeA f) := fun a _ s => writeBack_calls a _ s

theorem divideA_silent (f : Int → Int → Int) : RuleSilent (divideA f) := by
  intro a b s
  unfold divideA
  split
  · rfl
  · exact writeBack_calls a _ s

theorem setFlags_silent (f : Int → Int → Nat) : RuleSilent (setFlags f) := fun _ _ _ => rfl

theorem jumpIf_silent (cond : Word → Bool) (d : Operand) : RuleSilent (jumpIf cond d) := by
  intro a b s
  unfold jumpIf
  split
  · exact jumpTo_calls d _ s
  · rfl

theorem jumpToIndex_silent : RuleSilent jumpToIndex := by
  intro a b s
  unfold jumpToIndex
  split <;> rfl

theorem xchgRule_silent : RuleSilent xchgRule :=
  fun a b s => calls_bind (writeBack_calls a _ s) fun _ t => writeBack_calls b _ t

theorem callRule_silent (d : Operand) : RuleSilent (callRule d) :=
  fun _ _ s => calls_bind (jumpTarget_calls d _ s) fun _ t => calls_bind (pushWord_calls _ t) fun _ _ => rfl

theorem retRule_silent : RuleSilent retRule := by
  refine fun _ _ s => calls_bind (popWord_calls s) fun r t => ?_
  split <;> rfl

theorem popRule_silent : RuleSilent popRule :=
  fun a _ s => calls_bind (popWord_calls s) fun v t => writeBack_calls a v t

theorem loopRule_silent (d : Operand) : RuleSilent (loopRule d) := by
  intro a b s
  unfold loopRule
  dsimp only
  split
  · exact jumpTo_calls d _ _
  · rfl

/-- GET may read the shunt once more, after its operands. -/
theorem getRule_ruleCalls : RuleCalls getRule :=
  fun a _ s => .bind (memRead_readsOnly _ s) fun v t => .of_calls_eq (writeBack_calls a v t)

/-- INT asks the host unless the interrupt is invalid or the software reset (60_exceptions.md R413). -/
theorem intRule_ruleCalls : RuleCalls intRule := by
  intro a b s
  unfold intRule
  split
  · exact .of_calls_eq rfl
  split
  · exact .of_calls_eq rfl
  · exact .of_call (hostInterrupt_calls _ s) (.inr (.inr (.inr ⟨_, _, rfl⟩)))

/-- IPO asks the host only where the port check passed. -/
theorem ipoRule_ruleCalls : RuleCalls ipoRule :=
  fun a b s => .bind (readsOnly_of_state_eq (checkPortIn_state _ s)) fun _ t =>
    .of_call (calls_bind (portIn_calls a.value t) fun v u => writeBack_calls b v u) (.inr (.inl ⟨_, rfl⟩))

/-- OPO asks the host only where the port check passed. -/
theorem opoRule_ruleCalls : RuleCalls opoRule :=
  fun a b s => .bind (readsOnly_of_state_eq (checkPortOut_state _ s)) fun _ t =>
    .of_call (portOut_calls a.value b.value t) (.inr (.inr (.inl ⟨_, _, rfl⟩)))

/-! ### The stages of the step -/

theorem finish_calls (opc : Opcode) (arg : Option Int) (r : Res Unit) : (finish opc arg r).calls = r.state.calls := by
  cases r with
  | ok _ t => exact executed_calls t opc arg
  | raise e t => exact runtimeError_calls t _ arg e

/-- The operands are resolved before the rule, so their reads come before its call. -/
theorem runInstr_callsInOrder {opc : Opcode} {dA dB : Operand} {rule : Resolved → Resolved → State → Res Unit}
    {s t : State} (h : runInstr opc dA dB rule s = .next t) (hrule : RuleCalls rule) : CallsInOrder s t := by
  obtain ⟨w, -, rfl⟩ | ⟨-, e, u, hA, rfl⟩ | ⟨-, a, u, hA, hB⟩ := runInstr_cases h
  · exact .of_calls_eq (runtimeError_calls s _ _ _)
  · exact .after_reads ((resolve_readsOnly dA _ s).of_raise hA) (.of_calls_eq (runtimeError_calls u _ _ e))
  · refine .after_reads ((resolve_readsOnly dA _ s).of_ok hA) ?_
    obtain ⟨e, x, hB, rfl⟩ | ⟨b, x, hB, rfl⟩ := hB
    · exact .after_reads ((resolve_readsOnly dB _ u).of_raise hB) (.of_calls_eq (runtimeError_calls x _ _ e))
    · exact .after_reads ((resolve_readsOnly dB _ u).of_ok hB) ((hrule a b x).congr_calls (finish_calls _ _ _))

/-- The instruction of every opcode is the stages of the step around a rule whose calls are in order. -/
theorem exec_instr_ruleCalls (o : Opcode) (dA dB : Operand) :
    ∃ x y rule, exec (o.instr dA dB) = runInstr o x y rule ∧ RuleCalls rule := by
  cases o with
  | add | sub | mpy | or | and | xor | shl | shr | rol | ror | sal | sar | inc | dec | neg | not =>
    exact ⟨_, _, _, rfl, (writeA_silent _).ruleCalls⟩
  | div | mod => exact ⟨_, _, _, rfl, (divideA_silent _).ruleCalls⟩
  | mov | loc => exact ⟨_, _, _, rfl, (writeBackA_silent fun _ _ _ => _).ruleCalls⟩
  | cmp | test => exact ⟨_, _, _, rfl, (setFlags_silent _).ruleCalls⟩
  | jls | jgr | jne | jeq | jz | jnz | jae | jbe => exact ⟨_, _, _, rfl, (jumpIf_silent _ dA).ruleCalls⟩
  | jmp => exact ⟨_, _, _, rfl, fun _ _ s => .of_calls_eq (jumpTo_calls dA _ s)⟩
  | jtl => exact ⟨_, _, _, rfl, jumpToIndex_silent.ruleCalls⟩
  | call => exact ⟨_, _, _, rfl, (callRule_silent dA).ruleCalls⟩
  | ret => exact ⟨.unused, .unused, _, rfl, retRule_silent.ruleCalls⟩
  | push => exact ⟨_, _, _, rfl, fun _ _ s => .of_calls_eq (pushWord_calls _ s)⟩
  | pop => exact ⟨_, _, _, rfl, popRule_silent.ruleCalls⟩
  | loop => exact ⟨_, _, _, rfl, (loopRule_silent dA).ruleCalls⟩
  | xchg => exact ⟨_, _, _, rfl, xchgRule_silent.ruleCalls⟩
  | put => exact ⟨_, _, _, rfl, fun _ _ s => .of_calls_eq (memWrite_calls _ _ s)⟩
  | nop => exact ⟨.unused, .unused, fun _ _ s => .ok () s, rfl, fun _ _ _ => .of_calls_eq rfl⟩
  | delay | err | doCx => exact ⟨_, _, _, rfl, fun _ _ _ => .of_calls_eq rfl⟩
  | get => exact ⟨_, _, _, rfl, getRule_ruleCalls⟩
  | int => exact ⟨_, _, _, rfl, intRule_ruleCalls⟩
  | ipo => exact ⟨_, _, _, rfl, ipoRule_ruleCalls⟩
  | opo => exact ⟨_, _, _, rfl, opoRule_ruleCalls⟩

theorem exec_callsInOrder {i : Instr} {s t : State} (h : exec i s = .next t) : CallsInOrder s t := by
  obtain ⟨o, dA, dB, rfl⟩ | ⟨w, b, rfl | rfl⟩ := eq_instr_or_marker i
  · obtain ⟨x, y, rule, hexec, hrule⟩ := exec_instr_ruleCalls o dA dB
    rw [hexec] at h
    exact runInstr_callsInOrder h hrule
  · cases h
    exact .of_calls_eq (skipped_calls s)
  · cases h
    exact .of_calls_eq (skipped_calls s)

theorem runDecoded_callsInOrder {d : Decoded} {s t : State} (h : runDecoded d s = .next t) : CallsInOrder s t := by
  have hfault (u : State) (e : RuntimeError) : CallsInOrder u (u.runtimeError none none e) :=
    .of_calls_eq (runtimeError_calls u _ _ e)
  cases d with
  | instr i => exact exec_callsInOrder h
  | reject why =>
    cases why with
    | reservedOpcodeNibble w0 => cases h; exact hfault s _
    | unknownOpcode opc => cases h; exact hfault s _
  | opcodeInMemory d0 dA dB =>
    have hread := resolveOpcode_readsOnly d0 s
    cases hr : resolveOpcode d0 s with
    | raise e u =>
      cases (runDecoded_opcodeInMemory_raise hr).symm.trans h
      exact .after_reads (hread.of_raise hr) (hfault u e)
    | ok n u =>
      refine .after_reads (hread.of_ok hr) ?_
      cases ho : Opcode.ofNumber n with
      | none => cases (runDecoded_opcodeInMemory_unknown hr ho).symm.trans h; exact hfault u _
      | some o => exact exec_callsInOrder ((runDecoded_opcodeInMemory_ok hr ho).symm.trans h)

/-- Settles O60: a disabled or idle step asks `Host.disabled` alone; a fetch asks `Host.shadow` next, and then the
record that runs makes its calls in order. -/
theorem hostCallOrder : Obligations.HostCallOrder := by
  intro s t h
  rw [step, cycle] at h
  split at h
  · cases h
    exact .inl (beginStep_calls s)
  split at h
  · cases h
    exact .inl (beginStep_calls s)
  split at h
  · cases h
  · obtain ⟨as, last, hcalls, hlast⟩ := runDecoded_callsInOrder h
    refine .inr ⟨as, last, ?_, hlast⟩
    rw [hcalls, fetched_calls, beginStep_calls]
    rfl

end Sys2Proof.Machine
end

section
/-! PROOFS of the family 41_arithmetic.md. One equation says what an instruction does whose operand A is read and stored
to: its rule runs on A's address and value and on what B resolved to. The shared rules `writeA` and `divideA` each have
their equation from it, and an obligation is one of these for each of its instructions. -/

namespace Sys2Proof.Machine

/-! ### Words -/

/-- The exact value of a word is brought back to itself (00_scope.md R8). -/
theorem toInt_wrap16 {x : Int} (h : -32768 ≤ x) (h' : x < 32768) : (wrap16 x).toInt = x :=
  BitVec.toInt_ofInt_eq_self (by decide) h h'

/-- The complement of a pattern is that of `-a - 1` (42_bitwise_shift.md R233). -/
theorem not_u16 (a : Int) : ~~~u16 a = wrap16 (-a - 1) := by
  rw [u16, wrap16, BitVec.not_eq_neg_add, Int.sub_eq_add_neg, BitVec.ofInt_add, BitVec.ofInt_neg, BitVec.sub_eq_add_neg]
  rfl

theorem tmod_eq (a b : Int) : tmod a b = Int.tmod a b := (Int.tmod_def a b).symm

/-- The remainder lies between zero and the dividend, so it leaves no word's range whatever the divisor
(41_arithmetic.md R204). -/
theorem toInt_wrap16_tmod (w : Word) (b : Int) : (wrap16 (tmod w.toInt b)).toInt = Int.tmod w.toInt b := by
  have hlo := w.le_toInt
  have hhi := w.toInt_lt
  have hle : (Int.tmod w.toInt b).natAbs ≤ w.toInt.natAbs := Int.natAbs_tmod _ b ▸ Nat.mod_le _ _
  rw [tmod_eq]
  rcases Int.le_total 0 w.toInt with h | h
  · have hsign := Int.tmod_nonneg b h
    exact toInt_wrap16 (by omega) (by omega)
  · have hsign := Int.tmod_nonneg b (Int.neg_nonneg_of_nonpos h)
    rw [Int.neg_tmod] at hsign
    exact toInt_wrap16 (by omega) (by omega)

/-! ### A read destination's value -/

/-- A value read is a word's (40_execution_cycle.md R163). -/
theorem operandValue_isWord {d : Operand} {addr : Option Int} {s t : State} {v : Int}
    (h : operandValue d addr s = .ok v t) : ∃ w : Word, w.toInt = v := by
  cases addr with
  | none => cases h; exact ⟨d.value, rfl⟩
  | some a =>
    obtain ⟨w, _, -, h⟩ := Res.bind_eq_ok.mp h
    cases h
    exact ⟨w, rfl⟩

theorem resolve_jump_isWord {d : Operand} {s t : State} {x : Resolved} (h : resolve d .jump s = .ok x t) :
    ∃ w : Word, w.toInt = x.value := by
  cases hd : d.isReserved with
  | true => cases (resolve_reserved hd (u := .jump) nofun).symm.trans h
  | false =>
    rw [resolve_jump hd] at h
    obtain ⟨_, _, -, h⟩ := Res.bind_eq_ok.mp h
    obtain ⟨v, _, hread, h⟩ := Res.bind_eq_ok.mp h
    cases h
    exact operandValue_isWord hread

theorem IsReadDestination.jumpKind {d : Operand} {s t : State} {addr a : Int} (h : IsReadDestination d s addr a t) :
    d.jumpKind = .none := by
  obtain ⟨hbad, -⟩ := h
  by_contra hk
  exact Bool.false_ne_true (hbad.symm.trans (structurallyBad_of_writes rfl (.inr hk)))

/-- A read destination has no jump flag, so its value is the word at its address and no record index. -/
theorem IsReadDestination.isWord {d : Operand} {s t : State} {addr a : Int} (h : IsReadDestination d s addr a t) :
    ∃ w : Word, w.toInt = a := by
  have hk := h.jumpKind
  obtain ⟨-, hres⟩ := h
  rw [resolve_rw, resolve_r, hk] at hres
  obtain ⟨x, _, hr, hc⟩ := Res.bind_eq_ok.mp hres
  obtain ⟨⟨_, _⟩, _, hj, hl⟩ := Res.bind_eq_ok.mp hr
  obtain ⟨_, _, -, hx⟩ := Res.bind_eq_ok.mp hc
  cases hl
  cases hx
  exact resolve_jump_isWord hj

/-! ### Rules over a read destination -/

theorem divideA_of_ne_zero {a b : Resolved} (h : b.value ≠ 0) (f : Int → Int → Int) (s : State) :
    divideA f a b s = writeBack a (wrap16 (f a.value b.value)) s := if_neg h

theorem divideA_of_eq_zero {a b : Resolved} (h : b.value = 0) (f : Int → Int → Int) (s : State) :
    divideA f a b s = .raise ⟨8, none⟩ s := if_pos h

section
variable {opc : Opcode} {dA dB : Operand} {s t u : State} {addr a b : Int}

/-- With a read destination as A and a B that is no destination, an instruction is its rule on what they resolved to. -/
theorem runInstr_readDestination (hA : useA opc = .rw) (hB : (useB opc).writes = false)
    (h : IsReadDestination dA s addr a t) {y : Resolved} (hy : resolve dB (useB opc) t = .ok y u)
    (rule : Resolved → Resolved → State → Res Unit) :
    runInstr opc dA dB rule s = .next (finish opc (some a) (rule ⟨some addr, some a⟩ y u)) := by
  obtain ⟨hbad, hres⟩ := h
  rw [← hA] at hbad hres
  have hbadB : structurallyBad dB (useB opc) = false := by rw [structurallyBad, hB, Bool.false_and]
  exact runInstr_ok (structuralCheck_passes hbad hbadB) hres hy

/-- `mem[addrA] <- f a b`. -/
theorem runInstr_writeA (hA : useA opc = .rw) (hB : useB opc = .r) (h : IsReadDestination dA s addr a t)
    (h' : ReadsValue dB t b u) (f : Int → Int → Word) :
    runInstr opc dA dB (writeA f) s = .next ((u.setCell addr.toNat (f a b)).executed opc (some a)) := by
  obtain ⟨addrB, hb⟩ := h'
  exact runInstr_readDestination hA (by rw [hB]; rfl) h (by rw [hB, hb]) _

/-- `mem[addrA] <- f a`. -/
theorem runInstr_writeA_unary (hA : useA opc = .rw) (hB : useB opc = .none) (h : IsReadDestination dA s addr a t)
    (f : Int → Word) :
    runInstr opc dA dB (writeA fun a _ => f a) s = .next ((t.setCell addr.toNat (f a)).executed opc (some a)) :=
  runInstr_readDestination hA (by rw [hB]; rfl) h (by rw [hB, resolve_none]) _

/-- A division by another number than zero stores its result (41_arithmetic.md R203, R204). -/
theorem runInstr_divideA (hA : useA opc = .rw) (hB : useB opc = .r) (h : IsReadDestination dA s addr a t)
    (h' : ReadsValue dB t b u) (hb : b ≠ 0) (f : Int → Int → Int) :
    runInstr opc dA dB (divideA f) s = .next ((u.setCell addr.toNat (wrap16 (f a b))).executed opc (some a)) := by
  obtain ⟨addrB, hread⟩ := h'
  rw [runInstr_readDestination hA (by rw [hB]; rfl) h (by rw [hB, hread]) _,
    divideA_of_ne_zero (b := ⟨addrB, some b⟩) hb]
  rfl

/-- A division by zero ends in code 8 and writes nothing. -/
theorem runInstr_divideA_zero (hA : useA opc = .rw) (hB : useB opc = .r) (h : IsReadDestination dA s addr a t)
    (h' : ReadsValue dB t 0 u) (f : Int → Int → Int) :
    runInstr opc dA dB (divideA f) s = .next (u.runtimeError (some opc) (some a) ⟨8, none⟩) := by
  obtain ⟨addrB, hread⟩ := h'
  rw [runInstr_readDestination hA (by rw [hB]; rfl) h (by rw [hB, hread]) _, divideA_of_eq_zero rfl, finish_raise]

end

/-! ### The obligations of the family 41_arithmetic.md -/

/-- Settles O31: the three are `writeA` of the exact result brought back. -/
theorem addSubMpyResults : Obligations.AddSubMpyResults := fun _ _ _ _ _ _ _ _ h h' =>
  ⟨runInstr_writeA rfl rfl h h' _, runInstr_writeA rfl rfl h h' _, runInstr_writeA rfl rfl h h' _⟩

/-- Settles O32: both are `divideA`; A's value is a word, so MOD's remainder is one too, also where B reads a record
index above `i16`. -/
theorem divModResults : Obligations.DivModResults := by
  intro dA dB s t u addr a b h h'
  refine ⟨fun hb => ⟨runInstr_divideA rfl rfl h h' hb tdiv, ?_⟩, ?_⟩
  · obtain ⟨w, rfl⟩ := h.isWord
    exact ⟨_, toInt_wrap16_tmod w b, runInstr_divideA rfl rfl h h' hb tmod⟩
  · rintro rfl
    exact ⟨runInstr_divideA_zero rfl rfl h h' _, runInstr_divideA_zero rfl rfl h h' _⟩

/-- Settles O33: the four are `writeA` of A's value alone; NOT's complement is `-a - 1` brought back. -/
theorem unaryResults : Obligations.UnaryResults := by
  intro dA s t addr a h
  refine ⟨runInstr_writeA_unary rfl rfl h _, runInstr_writeA_unary rfl rfl h _, runInstr_writeA_unary rfl rfl h _, ?_⟩
  rw [← not_u16]
  exact runInstr_writeA_unary rfl rfl h fun a => ~~~u16 a

end Sys2Proof.Machine
end

section
/-! PROOFS of the family 42_bitwise_shift.md. Every instruction of it is `writeA` of a word function of A's and B's
values, so `runInstr_writeA` gives its next state; the rest is that the spec's arithmetic on patterns is the shift or
rotate of 16-bit vectors. -/

namespace Sys2Proof.Machine

/-! ### Patterns -/

/-- A multiple of a pattern by a power of two, brought back to 16 bits, is its left shift. -/
theorem s16_mul_two_pow_mod (p : Word) (n : Nat) : s16 (p.toNat * 2 ^ n % 65536) = p <<< n := by
  apply BitVec.eq_of_toNat_eq
  rw [s16, BitVec.toNat_ofNat, BitVec.toNat_shiftLeft, Nat.shiftLeft_eq]
  exact Nat.mod_mod _ _

/-- The quotient of a pattern by a power of two is its right shift with zeros. -/
theorem s16_div_two_pow (p : Word) (n : Nat) : s16 (p.toNat / 2 ^ n) = p >>> n := by
  rw [s16, ← Nat.shiftRight_eq_div_pow, ← BitVec.toNat_ushiftRight, BitVec.ofNat_toNat, BitVec.setWidth_eq]

theorem s16_add (m n : Nat) : s16 (m + n) = s16 m + s16 n := BitVec.ofNat_add m n

/-- The two parts of a rotate by `l` to the left and `r` to the right, with `l + r` the width, share no bit: the left
part holds bits from `l` on, the right part bits below `l`. -/
theorem shiftLeft_add_ushiftRight {w l r : Nat} (h : l + r = w) (p : BitVec w) :
    p <<< l + p >>> r = p <<< l ||| p >>> r := by
  apply BitVec.add_eq_or_of_and_eq_zero
  ext i hi
  rcases Nat.lt_or_ge i l with hlow | hhigh
  · simp [hlow]
  · simp [show w ≤ r + i by omega]

/-! ### The shifts and rotates -/

theorem shiftCount_lt (b : Int) : shiftCount b < 16 := Nat.mod_lt _ (by decide)

theorem shiftLeft_eq_shiftLeft (a b : Int) : shiftLeft a b = u16 a <<< shiftCount b := s16_mul_two_pow_mod _ _

theorem shiftRight_eq_ushiftRight (a b : Int) : shiftRight a b = u16 a >>> shiftCount b := s16_div_two_pow _ _

theorem rotateLeft_eq_rotateLeft (a b : Int) : rotateLeft a b = (u16 a).rotateLeft (shiftCount b) := by
  have hc := shiftCount_lt b
  rw [rotateLeft, s16_add, s16_mul_two_pow_mod, s16_div_two_pow, shiftLeft_add_ushiftRight (by omega),
    BitVec.rotateLeft_def, Nat.mod_eq_of_lt hc]

theorem rotateRight_eq_rotateRight (a b : Int) : rotateRight a b = (u16 a).rotateRight (shiftCount b) := by
  have hc := shiftCount_lt b
  rw [rotateRight, s16_add, s16_mul_two_pow_mod, s16_div_two_pow, BitVec.add_comm,
    shiftLeft_add_ushiftRight (by omega), BitVec.or_comm, BitVec.rotateRight_def, Nat.mod_eq_of_lt hc]

/-- SAR divides A's exact value, so its quotient is the shift of A's pattern where that value is a word's. -/
theorem shiftRightSigned_eq_sshiftRight (w : Word) (b : Int) :
    shiftRightSigned w.toInt b = (u16 w.toInt).sshiftRight (shiftCount b) := by
  have hfloor : Int.fdiv w.toInt (2 ^ shiftCount b) = w.toInt >>> shiftCount b := by
    rw [Int.fdiv_eq_ediv_of_nonneg _ (by positivity), Int.shiftRight_eq_div_pow, Nat.cast_pow, Nat.cast_ofNat]
  rw [shiftRightSigned, hfloor, wrap16, u16, BitVec.ofInt_toInt, BitVec.sshiftRight_eq]

/-- `mem[addrA] <- v` for an instruction whose arithmetic comes to the word `v`. -/
theorem runInstr_writeA_of_eq {opc : Opcode} {dA dB : Operand} {s t u : State} {addr a b : Int} {f : Int → Int → Word}
    {v : Word} (hA : useA opc = .rw) (hB : useB opc = .r) (h : IsReadDestination dA s addr a t)
    (h' : ReadsValue dB t b u) (hv : f a b = v) :
    runInstr opc dA dB (writeA f) s = .next ((u.setCell addr.toNat v).executed opc (some a)) :=
  hv ▸ runInstr_writeA hA hB h h' f

/-! ### The obligations of the family 42_bitwise_shift.md -/

/-- Settles O34: the three are `writeA` of the operation on the two patterns. -/
theorem orAndXorResults : Obligations.OrAndXorResults := fun _ _ _ _ _ _ _ _ h h' =>
  ⟨runInstr_writeA rfl rfl h h' _, runInstr_writeA rfl rfl h h' _, runInstr_writeA rfl rfl h h' _⟩

/-- Settles O35: the six are `writeA` of the spec's arithmetic, which is the shift or rotate of the pattern by the count
of R240; SAR needs besides that A's value is a word's. -/
theorem shiftRotateResults : Obligations.ShiftRotateResults := by
  intro dA dB s t u addr a b h h'
  obtain ⟨w, rfl⟩ := h.isWord
  exact ⟨runInstr_writeA_of_eq rfl rfl h h' (shiftLeft_eq_shiftLeft _ b),
    runInstr_writeA_of_eq rfl rfl h h' (shiftLeft_eq_shiftLeft _ b),
    runInstr_writeA_of_eq rfl rfl h h' (shiftRight_eq_ushiftRight _ b),
    runInstr_writeA_of_eq rfl rfl h h' (shiftRightSigned_eq_sshiftRight w b),
    runInstr_writeA_of_eq rfl rfl h h' (rotateLeft_eq_rotateLeft _ b),
    runInstr_writeA_of_eq rfl rfl h h' (rotateRight_eq_rotateRight _ b)⟩

end Sys2Proof.Machine
end

section
/-! PROOFS of the family 43_compare_jump.md. CMP and TEST replace the low nibble of FLAGS by one they compute, so a flag
of the result is a bit of that nibble. A jump's target comes from the one table its operand names, so JMP and the eight
conditional jumps end as one equation for `jumpTo` says. The frames follow from what every instruction does: it reads,
runs its rule, and commits. -/

namespace Sys2Proof.Machine

/-! ### The nibble of flags -/

/-- The flags E, L, G and Z as bits 3:0 of FLAGS hold them (10_state.md R34). -/
def flagsNibble (e l g z : Bool) : BitVec 4 :=
  BitVec.ofBool z ++ BitVec.ofBool g ++ BitVec.ofBool l ++ BitVec.ofBool e

theorem toNat_flagsNibble (e l g z : Bool) :
    (flagsNibble e l g z).toNat = e.toNat + 2 * l.toNat + 4 * g.toNat + 8 * z.toNat := by
  decide +revert

theorem cmpFlags_eq (a b : Int) :
    cmpFlags a b = (flagsNibble (a = b) (a < b) (b < a) (a = 0 ∧ b = 0)).toNat := by
  have hE : a - b = 0 ↔ a = b := Int.sub_eq_zero
  have hL : a - b < 0 ↔ a < b := sub_neg
  have hG : a - b > 0 ↔ b < a := Int.sub_pos
  simp only [cmpFlags, toNat_flagsNibble, Bool.toNat, Bool.cond_decide, hE, hL, hG, mul_ite, mul_one, mul_zero]

/-- A pattern is 0 where its signed value is. -/
theorem testFlags_eq (a b : Int) :
    testFlags a b = (flagsNibble ((u16 a &&& u16 b).toInt = b) false false (u16 a &&& u16 b = 0)).toNat := by
  have hZ : (u16 a &&& u16 b).toInt = 0 ↔ u16 a &&& u16 b = 0 := BitVec.toInt_inj (y := 0)
  simp only [testFlags, toNat_flagsNibble, Bool.toNat, Bool.cond_decide, hZ, cond_false, mul_ite, mul_one, mul_zero,
    Nat.add_zero]

/-! ### FLAGS with its low nibble replaced -/

theorem replaceFlags_toNat (old : Word) (n : BitVec 4) : replaceFlags old n.toNat = old.extractLsb' 4 12 ++ n := by
  apply BitVec.eq_of_toNat_eq
  rw [BitVec.toNat_append, ← Nat.shiftLeft_add_eq_or_of_lt n.isLt, BitVec.extractLsb'_toNat, replaceFlags, s16,
    BitVec.toNat_ofNat, Nat.shiftLeft_eq, Nat.shiftRight_eq_div_pow]
  omega

theorem getLsbD_replaceFlags (old : Word) (n : BitVec 4) {i : Nat} (hi : i < 4) :
    (replaceFlags old n.toNat).getLsbD i = n.getLsbD i := by
  rw [replaceFlags_toNat, BitVec.getLsbD_append, if_pos hi]

theorem extractLsb'_replaceFlags (old : Word) (n : BitVec 4) :
    (replaceFlags old n.toNat).extractLsb' 4 12 = old.extractLsb' 4 12 := by
  rw [replaceFlags_toNat, BitVec.extractLsb'_append_eq_of_le (by decide)]
  exact BitVec.extractLsb'_eq_self

theorem getLsbD_flagsNibble (e l g z : Bool) :
    (flagsNibble e l g z).getLsbD 0 = e ∧ (flagsNibble e l g z).getLsbD 1 = l ∧
    (flagsNibble e l g z).getLsbD 2 = g ∧ (flagsNibble e l g z).getLsbD 3 = z := by
  decide +revert

theorem setFlags_eq (f : Int → Int → Nat) (a b : Resolved) (s : State) :
    setFlags f a b s = .ok () (s.setCell 0 (replaceFlags (s.cell 0) (f a.value b.value))) := rfl

/-! ### Rules over operands that are no destinations -/

section
variable {opc : Opcode} {dA dB : Operand} {s t u : State} {a b n : Int}

theorem structurallyBad_of_not_writes {d : Operand} {u : Usage} (h : u.writes = false) :
    structurallyBad d u = false := by
  rw [structurallyBad, h, Bool.false_and]

/-- An instruction without a destination is its rule on what its operands resolved to. -/
theorem runInstr_noDestination (hA : (useA opc).writes = false) (hB : (useB opc).writes = false) {x y : Resolved}
    (hx : resolve dA (useA opc) s = .ok x t) (hy : resolve dB (useB opc) t = .ok y u)
    (rule : Resolved → Resolved → State → Res Unit) :
    runInstr opc dA dB rule s = .next (finish opc x.val (rule x y u)) :=
  runInstr_ok (structuralCheck_passes (structurallyBad_of_not_writes hA) (structurallyBad_of_not_writes hB)) hx hy

/-- `FLAGS[3:0] <- f a b`: where `f a b` is a nibble of flags, they are the flags of the new FLAGS, and bits 15:4 are
the old ones. -/
theorem runInstr_setFlags (hA : useA opc = .r) (hB : useB opc = .r) (h : ReadsValue dA s a t) (h' : ReadsValue dB t b u)
    {f : Int → Int → Nat} {e l g z : Bool} (hf : f a b = (flagsNibble e l g z).toNat) :
    ∃ w : Word, runInstr opc dA dB (setFlags f) s = .next ((u.setCell 0 w).executed opc (some a)) ∧
      w.getLsbD 0 = e ∧ w.getLsbD 1 = l ∧ w.getLsbD 2 = g ∧ w.getLsbD 3 = z ∧
      w.extractLsb' 4 12 = (u.cell 0).extractLsb' 4 12 := by
  obtain ⟨addrA, hx⟩ := h
  obtain ⟨addrB, hy⟩ := h'
  have hrun := runInstr_noDestination (by rw [hA]; rfl) (by rw [hB]; rfl) (hA ▸ hx) (hB ▸ hy) (setFlags f)
  have hvalues : f (⟨addrA, some a⟩ : Resolved).value (⟨addrB, some b⟩ : Resolved).value = f a b := rfl
  rw [setFlags_eq, hvalues, hf, finish_ok] at hrun
  obtain ⟨hE, hL, hG, hZ⟩ := getLsbD_flagsNibble e l g z
  exact ⟨_, hrun, (getLsbD_replaceFlags _ _ (by decide)).trans hE, (getLsbD_replaceFlags _ _ (by decide)).trans hL,
    (getLsbD_replaceFlags _ _ (by decide)).trans hG, (getLsbD_replaceFlags _ _ (by decide)).trans hZ,
    extractLsb'_replaceFlags _ _⟩

/-- An instruction of one label operand is its rule on the label index. -/
theorem runInstr_label (hA : useA opc = .jump) (hB : useB opc = .none) (h : ReadsLabel dA s n t) : ∃ addr, ∀ rule,
    runInstr opc dA dB rule s = .next (finish opc (some n) (rule ⟨addr, some n⟩ ⟨none, none⟩ t)) := by
  obtain ⟨addr, hx⟩ := h
  exact ⟨addr, runInstr_noDestination (by rw [hA]; rfl) (by rw [hB]; rfl) (by rw [hA, hx]) (by rw [hB, resolve_none])⟩

theorem ReadsLabel.readsOnly (h : ReadsLabel dA s n t) : ReadsOnly s t := by
  obtain ⟨_, hx⟩ := h
  exact (resolve_readsOnly dA _ s).of_ok hx

theorem ReadsValue.readsOnly (h : ReadsValue dA s a t) : ReadsOnly s t := by
  obtain ⟨_, hx⟩ := h
  exact (resolve_readsOnly dA _ s).of_ok hx

end

/-! ### Jumps through the tables -/

/-- The table a label operand's index is looked up in (40_execution_cycle.md R164, R168). -/
def labelTable (d : Operand) (s : State) : List (Option Nat) :=
  if d.jumpKind = .symbolic then s.alnumTable else s.numTable

/-- The code of the fault where that table has no entry (60_exceptions.md R400). -/
def labelFaultCode (d : Operand) : Int := if d.jumpKind = .symbolic then 9 else 2

section
variable {d : Operand} {s t : State} {n : Int}

theorem ReadsOnly.labelTable_eq (h : ReadsOnly s t) (d : Operand) : labelTable d t = labelTable d s := by
  obtain ⟨hnum, halnum, -⟩ := h.tables
  simp only [labelTable, hnum, halnum]

theorem jumpTo_defined {k : Nat} (h : lookupLabel (labelTable d s) n = some k) : jumpTo d n s = .ok () (s.setIp k) := by
  obtain ⟨k', hk', hl⟩ | ⟨-, hl⟩ := jumpTarget_cases d n s
  · obtain rfl : k' = k := Option.some.inj (hl.symm.trans h)
    rw [jumpTo, hk', Res.bind_ok]
  · cases hl.symm.trans h

theorem jumpTo_undefined (h : lookupLabel (labelTable d s) n = none) :
    jumpTo d n s = .raise ⟨labelFaultCode d, some n⟩ s := by
  obtain ⟨k', -, hl⟩ | ⟨hr, -⟩ := jumpTarget_cases d n s
  · cases hl.symm.trans h
  · rw [jumpTo, hr, Res.bind_raise, labelFaultCode]

/-- How an instruction ends whose rule jumps to the label `n` once its operand is read: JMP, and a conditional jump that
is taken (43_compare_jump.md R262, R264). -/
theorem finish_jumpTo (h : ReadsOnly s t) (d : Operand) (n : Int) (o : Opcode) (arg : Option Int) :
    (d.jumpKind ≠ .symbolic →
      (∀ k, lookupLabel s.numTable n = some k → finish o arg (jumpTo d n t) = (t.setIp k).executed o arg) ∧
      (lookupLabel s.numTable n = none → finish o arg (jumpTo d n t) = t.runtimeError (some o) arg ⟨2, some n⟩)) ∧
    (d.jumpKind = .symbolic →
      (∀ k, lookupLabel s.alnumTable n = some k → finish o arg (jumpTo d n t) = (t.setIp k).executed o arg) ∧
      (lookupLabel s.alnumTable n = none → finish o arg (jumpTo d n t) = t.runtimeError (some o) arg ⟨9, some n⟩)) := by
  have key (table : List (Option Nat)) (code : Int) (htable : labelTable d s = table)
      (hcode : labelFaultCode d = code) :
      (∀ k, lookupLabel table n = some k → finish o arg (jumpTo d n t) = (t.setIp k).executed o arg) ∧
      (lookupLabel table n = none → finish o arg (jumpTo d n t) = t.runtimeError (some o) arg ⟨code, some n⟩) := by
    rw [← htable, ← hcode, ← h.labelTable_eq]
    exact ⟨fun k hk => by rw [jumpTo_defined hk, finish_ok], fun hk => by rw [jumpTo_undefined hk, finish_raise]⟩
  exact ⟨fun hd => key _ _ (if_neg hd) (if_neg hd), fun hd => key _ _ (if_pos hd) (if_pos hd)⟩

theorem labelEntry_defined {k : Nat} (hd : d.jumpKind ≠ .none) (h : lookupLabel (labelTable d s) n = some k) :
    labelEntry d.jumpKind n s = .ok (k : Int) s := by
  unfold labelTable at h
  cases hkind : d.jumpKind with
  | none => exact absurd hkind hd
  | numeric =>
    rw [if_neg (by rw [hkind]; nofun)] at h
    simp only [labelEntry, numLookup, h, Res.bind_ok]
  | symbolic =>
    rw [if_pos hkind] at h
    simp only [labelEntry, alnumLookup, h, Res.bind_ok]

/-- A jump-flagged operand read as a value gives the record index of the label it names (40_execution_cycle.md R164). -/
theorem readsValue_of_readsLabel {k : Nat} (hd : d.jumpKind ≠ .none) (h : ReadsLabel d s n t)
    (hk : lookupLabel (labelTable d s) n = some k) : ReadsValue d s k t := by
  rw [← h.readsOnly.labelTable_eq] at hk
  obtain ⟨addr, hx⟩ := h
  exact ⟨addr, by rw [resolve_r_of_jump hx, labelEntry_defined hd hk, Res.bind_ok]⟩

end

/-! ### JMP and JTL -/

section
variable {dA : Operand} {s t : State} {n a : Int}

theorem exec_jmp (h : ReadsLabel dA s n t) : exec (.jmp dA) s = .next (finish .jmp (some n) (jumpTo dA n t)) := by
  obtain ⟨_, hrun⟩ := runInstr_label (opc := .jmp) rfl rfl h
  exact hrun _

theorem exec_jtl (h : ReadsValue dA s a t) :
    exec (.jtl dA) s = .next (finish .jtl (some a) (jumpToIndex ⟨none, some a⟩ ⟨none, none⟩ t)) := by
  obtain ⟨_, hx⟩ := h
  exact runInstr_noDestination (opc := .jtl) rfl rfl hx (resolve_none _ t) _

theorem exec_jtl_inside (h : ReadsValue dA s a t) (h0 : 0 ≤ a) (hlt : a < s.prog.length) :
    exec (.jtl dA) s = .next ((t.setIp a.toNat).executed .jtl (some a)) := by
  obtain ⟨-, -, hprog⟩ := h.readsOnly.tables
  rw [exec_jtl h, jumpToIndex, if_neg, finish_ok]
  · rfl
  · rw [hprog]
    exact not_or.mpr ⟨not_lt.mpr h0, not_le.mpr hlt⟩

theorem exec_jtl_outside (h : ReadsValue dA s a t) (hout : a < 0 ∨ (s.prog.length : Int) ≤ a) :
    exec (.jtl dA) s = .next (t.runtimeError (some .jtl) (some a) ⟨2, some a⟩) := by
  obtain ⟨-, -, hprog⟩ := h.readsOnly.tables
  rw [exec_jtl h, jumpToIndex, if_pos, finish_raise]
  · rfl
  · rw [hprog]
    exact hout

end

/-! ### The conditional jumps -/

/-- `j` makes the instructions of opcode `o`, and they are the template of 43_compare_jump.md R262 with condition
`cond`. -/
def IsConditionalJump (j : Operand → Instr) (o : Opcode) (cond : Word → Prop) : Prop :=
  useA o = .jump ∧ useB o = .none ∧
  ∃ c : Word → Bool, (∀ f, c f = true ↔ cond f) ∧ ∀ d, exec (j d) = runInstr o d .unused (jumpIf c d)

section
variable {j : Operand → Instr} {o : Opcode} {cond : Word → Prop} {dA : Operand} {s t : State} {n : Int}

/-- Resolution only reads, so the condition is that of FLAGS before it. -/
theorem IsConditionalJump.exec_eq (hj : IsConditionalJump j o cond) (h : ReadsLabel dA s n t) :
    (¬ cond (s.cell 0) → exec (j dA) s = .next (t.executed o (some n))) ∧
    (cond (s.cell 0) → exec (j dA) s = .next (finish o (some n) (jumpTo dA n t))) := by
  obtain ⟨hA, hB, c, hc, hexec⟩ := hj
  obtain ⟨addr, hrun⟩ := runInstr_label (dB := .unused) hA hB h
  have hflags : t.reg .flags = s.cell 0 := h.readsOnly.cell 0
  rw [hexec, hrun, jumpIf, hflags, ← hc]
  exact ⟨fun hn => by rw [if_neg hn, finish_ok], fun hp => by rw [if_pos hp]; rfl⟩

end

/-! ### What every instruction does -/

section
variable {opc : Opcode} {dA dB : Operand} {rule : Resolved → Resolved → State → Res Unit} {p : Nat → Prop}
  {s t u : State}

/-- An instruction reads from `s` to `x`, runs its rule or does not come to it, and commits from `y` to `t`. -/
theorem runInstr_stages (h : runInstr opc dA dB rule s = .next t) :
    ∃ x y, ReadsOnly s x ∧ (y = x ∨ ∃ a b, y = (rule a b x).state) ∧ ∀ p, KeepsBut p y t := by
  obtain ⟨w, -, rfl⟩ | ⟨-, e, v, hA, rfl⟩ | ⟨-, a, v, hA, hB⟩ := runInstr_cases h
  · exact ⟨s, s, .refl s, .inl rfl, fun p => runtimeError_keepsBut p s _ _ _⟩
  · exact ⟨v, v, (resolve_readsOnly dA _ s).of_raise hA, .inl rfl, fun p => runtimeError_keepsBut p v _ _ e⟩
  · have hsv := (resolve_readsOnly dA _ s).of_ok hA
    obtain ⟨e, x, hB, rfl⟩ | ⟨b, x, hB, rfl⟩ := hB
    · exact ⟨x, x, hsv.trans ((resolve_readsOnly dB _ v).of_raise hB), .inl rfl,
        fun p => runtimeError_keepsBut p x _ _ e⟩
    · refine ⟨x, (rule a b x).state, hsv.trans ((resolve_readsOnly dB _ v).of_ok hB), .inr ⟨a, b, rfl⟩, fun p => ?_⟩
      exact finish_keepsBut (.refl p _) opc a.val

/-- `KeepsBut` without `ip`: the frame of an instruction that writes the cells `p` and may jump. -/
structure KeepsStoresBut (p : Nat → Prop) (s t : State) : Prop where
  cells : SameCellsBut p s t
  stack : t.stack = s.stack
  fixtures : SameFixtures s t

theorem KeepsBut.keepsStoresBut (h : KeepsBut p s t) : KeepsStoresBut p s t := ⟨h.cells, h.stack, h.fixtures⟩

theorem KeepsStoresBut.refl (p : Nat → Prop) (s : State) : KeepsStoresBut p s s := (KeepsBut.refl p s).keepsStoresBut

theorem KeepsStoresBut.trans (h : KeepsStoresBut p s t) (h' : KeepsStoresBut p t u) : KeepsStoresBut p s u :=
  ⟨fun c hc => (h'.cells c hc).trans (h.cells c hc), h'.stack.trans h.stack, h.fixtures.trans h'.fixtures⟩

theorem setReg_keepsBut (r : Reg) (s : State) (v : Word) : KeepsBut (fun c => c = r.addr) s (s.setReg r v) :=
  setCell_keepsBut (p := fun c => c = r.addr) rfl s v

theorem setIp_keepsStoresBut (p : Nat → Prop) (s : State) (k : Nat) : KeepsStoresBut p s (s.setIp k) :=
  ⟨fun _ _ => rfl, rfl, ⟨rfl, rfl, rfl, rfl, rfl, rfl, rfl⟩⟩

theorem jumpTo_keepsStoresBut (p : Nat → Prop) (d : Operand) (n : Int) (s : State) :
    KeepsStoresBut p s (jumpTo d n s).state := by
  cases h : lookupLabel (labelTable d s) n with
  | none => rw [jumpTo_undefined h]; exact .refl p s
  | some k => rw [jumpTo_defined h]; exact setIp_keepsStoresBut p s k

theorem runInstr_keepsStoresBut (h : runInstr opc dA dB rule s = .next t)
    (hrule : ∀ a b x, KeepsStoresBut p x (rule a b x).state) : KeepsStoresBut p s t := by
  obtain ⟨x, y, hread, hy, hend⟩ := runInstr_stages h
  have hxy : KeepsStoresBut p x y := by
    obtain rfl | ⟨a, b, rfl⟩ := hy
    · exact .refl p y
    · exact hrule a b x
  exact ((hread.keepsBut p).keepsStoresBut.trans hxy).trans (hend p).keepsStoresBut

theorem loopRule_keepsStoresBut (d : Operand) (a b : Resolved) (s : State) :
    KeepsStoresBut (fun c => c = 3) s (loopRule d a b s).state := by
  have hcx (v : Word) : KeepsStoresBut (fun c => c = 3) s (s.setReg .cx v) :=
    (setReg_keepsBut .cx s v).keepsStoresBut
  unfold loopRule
  dsimp only
  split
  · exact (hcx _).trans (jumpTo_keepsStoresBut _ d _ _)
  · exact hcx _

/-- A rule that replaces FLAGS' low nibble by a nibble writes its bits 3:0 alone. -/
theorem runInstr_setFlags_frame {f : Int → Int → Nat} (hf : ∀ a b, ∃ n : BitVec 4, f a b = n.toNat)
    (h : runInstr opc dA dB (setFlags f) s = .next t) :
    KeepsBut (fun c => c = 0) s t ∧ (t.cell 0).extractLsb' 4 12 = (s.cell 0).extractLsb' 4 12 := by
  obtain ⟨x, y, hread, hy, hend⟩ := runInstr_stages h
  have hxy : KeepsBut (fun c => c = 0) x y ∧ (y.cell 0).extractLsb' 4 12 = (x.cell 0).extractLsb' 4 12 := by
    obtain rfl | ⟨a, b, rfl⟩ := hy
    · exact ⟨.refl _ y, rfl⟩
    · obtain ⟨n, hn⟩ := hf a.value b.value
      rw [setFlags_eq, Res.state_ok, hn]
      refine ⟨setCell_keepsBut (p := fun c => c = 0) rfl x _, ?_⟩
      rw [cell_setCell, if_pos rfl]
      exact extractLsb'_replaceFlags _ n
  obtain ⟨hkeeps, hbits⟩ := hxy
  refine ⟨((hread.keepsBut _).trans hkeeps).trans (hend _), ?_⟩
  rw [(hend fun _ => False).cells 0 id, hbits, hread.cell 0]

end

/-! ### The obligations of the family 43_compare_jump.md -/

/-- Settles O36: CMP's flags are the nibble of the four comparisons. -/
theorem cmpSetsFlags : Obligations.CmpSetsFlags := by
  intro dA dB s t u a b h h'
  obtain ⟨f, hrun, hE, hL, hG, hZ, hupper⟩ := runInstr_setFlags (opc := .cmp) rfl rfl h h' (cmpFlags_eq a b)
  exact ⟨f, hrun, by rw [hE, decide_eq_true_iff], by rw [hL, decide_eq_true_iff], by rw [hG, decide_eq_true_iff],
    by rw [hZ, decide_eq_true_iff], hupper⟩

/-- Settles O37: TEST's flags are the nibble of its two tests of the mask, with L and G clear. -/
theorem testSetsFlags : Obligations.TestSetsFlags := by
  intro dA dB s t u a b h h'
  obtain ⟨f, hrun, hE, hL, hG, hZ, hupper⟩ := runInstr_setFlags (opc := .test) rfl rfl h h' (testFlags_eq a b)
  exact ⟨f, hrun, by rw [hE, decide_eq_true_iff], hL, hG, by rw [hZ, decide_eq_true_iff], hupper⟩

/-- Settles O38: each of the eight is the template with its condition, and taken it ends as `jumpTo` does. -/
theorem conditionalJumps : Obligations.ConditionalJumps := by
  intro j o cond hj dA s t n h
  have hjump : IsConditionalJump j o cond := by
    obtain hj | hj | hj | hj | hj | hj | hj | hj := hj <;> cases hj <;> refine ⟨rfl, rfl, ?_⟩
    · exact ⟨condJls, fun _ => Iff.rfl, fun _ => rfl⟩
    · exact ⟨condJgr, fun _ => Iff.rfl, fun _ => rfl⟩
    · exact ⟨condJne, fun _ => Bool.not_eq_true' _ ▸ Iff.rfl, fun _ => rfl⟩
    · exact ⟨condJeq, fun _ => Iff.rfl, fun _ => rfl⟩
    · exact ⟨condJz, fun _ => Iff.rfl, fun _ => rfl⟩
    · exact ⟨condJnz, fun _ => Bool.not_eq_true' _ ▸ Iff.rfl, fun _ => rfl⟩
    · exact ⟨condJae, fun _ => Bool.or_eq_true_iff, fun _ => rfl⟩
    · exact ⟨condJbe, fun _ => Bool.or_eq_true_iff, fun _ => rfl⟩
  obtain ⟨huntaken, htaken⟩ := hjump.exec_eq h
  obtain ⟨hnum, halnum⟩ := finish_jumpTo h.readsOnly dA n o (some n)
  refine ⟨huntaken, fun hcond => ?_, fun hcond => ?_⟩ <;> rw [htaken hcond] <;> simp only [Host.Outcome.next.injEq]
  · exact hnum
  · exact halnum

/-- Settles O39: JMP ends as `jumpTo` does; a jump-flagged JTL reads as its value the index JMP jumps to. -/
theorem jmpJtlResults : Obligations.JmpJtlResults := by
  refine ⟨fun dA s t n h => ?_, fun dA s t a h => ⟨exec_jtl_inside h, exec_jtl_outside h⟩,
    fun dA s t n k h hk hlabel => ?_⟩
  · rw [exec_jmp h]
    simp only [Host.Outcome.next.injEq]
    exact finish_jumpTo h.readsOnly dA n .jmp (some n)
  · obtain ⟨hkind, hlookup⟩ : dA.jumpKind ≠ .none ∧ lookupLabel (labelTable dA s) n = some k := by
      obtain ⟨hkind, hl⟩ | ⟨hkind, hl⟩ := hlabel <;> simp [hkind, labelTable, hl]
    refine ⟨exec_jtl_inside (readsValue_of_readsLabel hkind h hlookup) (Int.natCast_nonneg k) (Int.ofNat_lt.mpr hk), ?_⟩
    rw [exec_jmp h, jumpTo_defined (by rwa [h.readsOnly.labelTable_eq]), finish_ok]

/-- Settles O54: CMP and TEST replace FLAGS' low nibble alone, DO and LOOP write CX alone. -/
theorem frameOfCompareAndLoop : Obligations.FrameOfCompareAndLoop := by
  intro i dA dB s t h
  refine ⟨fun hi => ?_, fun hi => ?_⟩
  · obtain ⟨⟨hcells, hstack, hip, hfix⟩, hbits⟩ :
        KeepsBut (fun c => c = 0) s t ∧ (t.cell 0).extractLsb' 4 12 = (s.cell 0).extractLsb' 4 12 := by
      obtain rfl | rfl := hi <;> dsimp only [exec, execCmp, execTest] at h
      · exact runInstr_setFlags_frame (fun a b => ⟨_, cmpFlags_eq a b⟩) h
      · exact runInstr_setFlags_frame (fun a b => ⟨_, testFlags_eq a b⟩) h
    exact ⟨hcells, hbits, hstack, hip, hfix⟩
  · obtain ⟨hcells, hstack, hfix⟩ : KeepsStoresBut (fun c => c = 3) s t := by
      obtain rfl | rfl := hi <;> dsimp only [exec, execDoCx, execLoop] at h
      · exact runInstr_keepsStoresBut h fun _ _ x => (setReg_keepsBut .cx x _).keepsStoresBut
      · exact runInstr_keepsStoresBut h (loopRule_keepsStoresBut dA)
    exact ⟨hcells, hstack, hfix⟩

end Sys2Proof.Machine
end

section
/-! PROOFS of the family 44_subroutine_loop_stack.md. A push and a pop have one equation inside the stack's bounds and one
outside, and a pop after a push gives the pushed word and SP back. Each instruction is its rule on what its operand
resolved to, and each rule's equations come from those of the push, the pop and the lookup of a label. -/

namespace Sys2Proof.Machine

/-! ### Stored words -/

theorem holds_storeWord (v : Int) : Holds (storeWord v) v := storeWord_toInt

/-- SP after a push, where it fits in a cell. -/
theorem storeWord_toInt_add_one {w : Word} (h : w.toInt < 32767) : storeWord (w.toInt + 1) = w + 1 := by
  have hlo := w.le_toInt
  rw [storeWord, if_pos ⟨by omega, by omega⟩, BitVec.ofInt_add, BitVec.ofInt_toInt]
  rfl

/-! ### The stack -/

/-- The state after a push of `v`: the slot SP names holds it and SP is incremented (44_subroutine_loop_stack.md R300,
R302). -/
def State.pushed (s : State) (v : Word) : State :=
  { s with stack := s.stack.set (s.cell 7).toNat v }.setCell 7 (storeWord ((s.cell 7).toInt + 1))

section
variable {s t : State}

@[simp] theorem pushed_stack (s : State) (v : Word) : (s.pushed v).stack = s.stack.set (s.cell 7).toNat v := rfl

@[simp] theorem pushed_cell_sp (s : State) (v : Word) : (s.pushed v).cell 7 = storeWord ((s.cell 7).toInt + 1) := by
  rw [State.pushed, cell_setCell, if_pos rfl]

@[simp] theorem pushed_params (s : State) (v : Word) : (s.pushed v).params = s.params := rfl
@[simp] theorem pushed_prog (s : State) (v : Word) : (s.pushed v).prog = s.prog := rfl
@[simp] theorem pushed_prevIp (s : State) (v : Word) : (s.pushed v).prevIp = s.prevIp := rfl

@[simp] theorem setIp_cell (s : State) (k c : Nat) : (s.setIp k).cell c = s.cell c := rfl

@[simp] theorem executed_cell (s : State) (o : Opcode) (arg : Option Int) (c : Nat) :
    (s.executed o arg).cell c = s.cell c := cell_eq_of_mem_eq (executed_mem s o arg) c

theorem pushWord_outside (v : Word) (h : (s.cell 7).toInt < 0 ∨ (s.params.stackSize : Int) ≤ (s.cell 7).toInt) :
    pushWord v s = .raise ⟨1, some (s.cell 7).toInt⟩ s := by
  obtain ⟨-, hp⟩ | ⟨h0, hlt, -⟩ := pushWord_cases v s
  · exact hp
  · omega

theorem pushWord_inside (v : Word) (h0 : 0 ≤ (s.cell 7).toInt) (hlt : (s.cell 7).toInt < s.params.stackSize) :
    pushWord v s = .ok () (s.pushed v) := by
  obtain ⟨hout, -⟩ | ⟨-, -, hp⟩ := pushWord_cases v s
  · omega
  · exact hp

/-- A push that succeeds had room in the stack. -/
theorem pushWord_ok {v : Word} (h : pushWord v s = .ok () t) :
    0 ≤ (s.cell 7).toInt ∧ (s.cell 7).toInt < s.params.stackSize ∧ t = s.pushed v := by
  obtain ⟨-, hp⟩ | ⟨h0, hlt, hp⟩ := pushWord_cases v s <;> cases hp.symm.trans h
  exact ⟨h0, hlt, rfl⟩

theorem popWord_outside (h : (s.cell 7).toInt ≤ 0 ∨ (s.params.stackSize : Int) < (s.cell 7).toInt) :
    popWord s = .raise ⟨5, some (s.cell 7).toInt⟩ s := by
  obtain ⟨-, hp⟩ | ⟨h0, hle, -⟩ := popWord_cases s
  · exact hp
  · omega

theorem popWord_inside (h0 : 0 < (s.cell 7).toInt) (hle : (s.cell 7).toInt ≤ s.params.stackSize) :
    popWord s = .ok (s.stack.get ((s.cell 7).toNat - 1)) (s.setCell 7 (s.cell 7 - 1)) := by
  obtain ⟨hout, -⟩ | ⟨-, -, hp⟩ := popWord_cases s
  · omega
  · exact hp

/-- A pop from the stack and the SP that a push of `v` left gives `v`, and SP as it was before the push. -/
theorem popWord_of_pushed {v : Word} (h0 : 0 ≤ (s.cell 7).toInt) (hlt : (s.cell 7).toInt < s.params.stackSize)
    (hfit : (s.cell 7).toInt < 32767) (hsp : t.cell 7 = (s.pushed v).cell 7) (hstack : t.stack = (s.pushed v).stack)
    (hparams : t.params = s.params) : popWord t = .ok v (t.setCell 7 (s.cell 7)) := by
  have hint : (t.cell 7).toInt = (s.cell 7).toInt + 1 := by
    rw [hsp, pushed_cell_sp, storeWord_toInt (by omega) (by omega)]
  have hslot : (t.cell 7).toNat - 1 = (s.cell 7).toNat := by
    have hs := toNat_eq_toInt_of_nonneg h0
    have ht := toNat_eq_toInt_of_nonneg (w := t.cell 7) (by omega)
    omega
  have hback : t.cell 7 - 1 = s.cell 7 := by
    rw [hsp, pushed_cell_sp, storeWord_toInt_add_one hfit, BitVec.add_sub_cancel]
  rw [popWord_inside (by omega) (by rw [hparams]; omega), hslot, hback, hstack, pushed_stack, Cells.get_set, if_pos rfl]

end

/-! ### Links -/

section
variable {s t : State}

theorem callLink_selfIndex (h : s.params.retLink = .selfIndex) : callLink s = s.prevIp := by rw [callLink, h]

theorem callLink_nextIndex (h : s.params.retLink = .nextIndex) : callLink s = s.ip := by rw [callLink, h]

theorem returnIndex_selfIndex (h : s.params.retLink = .selfIndex) (link : Nat) :
    returnIndex s link = (link + 1) % s.prog.length := by rw [returnIndex, h]

theorem returnIndex_nextIndex (h : s.params.retLink = .nextIndex) (link : Nat) : returnIndex s link = link := by
  rw [returnIndex, h]

theorem returnIndex_congr (hparams : t.params = s.params) (hprog : t.prog = s.prog) (link : Nat) :
    returnIndex t link = returnIndex s link := by
  rw [returnIndex, returnIndex, hparams, hprog]

theorem returnIndex_setCell (s : State) (c : Nat) (v : Word) (link : Nat) :
    returnIndex (s.setCell c v) link = returnIndex s link := returnIndex_congr rfl rfl link

/-- RET undoes CALL's link under both values of `RET_LINK`: where the fetch left `ip` at the record after `prev_ip`, it
returns there (44_subroutine_loop_stack.md R300, R301). -/
theorem returnIndex_callLink (hip : s.ip = (s.prevIp + 1) % s.prog.length) : returnIndex s (callLink s) = s.ip := by
  cases h : s.params.retLink with
  | selfIndex => rw [callLink_selfIndex h, returnIndex_selfIndex h, hip]
  | nextIndex => rw [callLink_nextIndex h, returnIndex_nextIndex h]

theorem callLink_lt (hprev : s.prevIp < s.prog.length) (hip : s.ip = (s.prevIp + 1) % s.prog.length) :
    callLink s < s.prog.length := by
  cases h : s.params.retLink with
  | selfIndex => rwa [callLink_selfIndex h]
  | nextIndex =>
    rw [callLink_nextIndex h, hip]
    exact Nat.mod_lt _ (Nat.zero_lt_of_lt hprev)

/-! ### What a read operand leaves -/

theorem ReadsOnly.stack (h : ReadsOnly s t) : t.stack = s.stack := by
  obtain ⟨as, rfl⟩ := h
  rfl

theorem ReadsOnly.params (h : ReadsOnly s t) : t.params = s.params := by
  obtain ⟨as, rfl⟩ := h
  rfl

theorem ReadsOnly.ip (h : ReadsOnly s t) : t.ip = s.ip := by
  obtain ⟨as, rfl⟩ := h
  rfl

end

/-! ### The rules -/

section
variable {d : Operand} {s t : State} {n : Int} {a b : Resolved}

/-- The table and the fault of a label operand, by its jump kind (40_execution_cycle.md R168). -/
theorem eq_labelTable_and_labelFaultCode {table : List (Option Nat)} {code : Int}
    (h : d.jumpKind ≠ .symbolic ∧ table = s.numTable ∧ code = 2 ∨
      d.jumpKind = .symbolic ∧ table = s.alnumTable ∧ code = 9) :
    table = labelTable d s ∧ code = labelFaultCode d := by
  obtain ⟨hd, rfl, rfl⟩ | ⟨hd, rfl, rfl⟩ := h
  · exact ⟨(if_neg hd).symm, (if_neg hd).symm⟩
  · exact ⟨(if_pos hd).symm, (if_pos hd).symm⟩

theorem jumpTarget_defined {k : Nat} (h : lookupLabel (labelTable d s) n = some k) : jumpTarget d n s = .ok k s := by
  obtain ⟨k', hk', hl⟩ | ⟨-, hl⟩ := jumpTarget_cases d n s
  · obtain rfl : k' = k := Option.some.inj (hl.symm.trans h)
    exact hk'
  · cases hl.symm.trans h

theorem jumpTarget_undefined (h : lookupLabel (labelTable d s) n = none) :
    jumpTarget d n s = .raise ⟨labelFaultCode d, some n⟩ s := by
  obtain ⟨k', -, hl⟩ | ⟨hr, -⟩ := jumpTarget_cases d n s
  · cases hl.symm.trans h
  · exact hr

/-- CALL's lookup comes before its push (44_subroutine_loop_stack.md R300). -/
theorem callRule_undefined (h : lookupLabel (labelTable d s) a.value = none) :
    callRule d a b s = .raise ⟨labelFaultCode d, some a.value⟩ s := by
  rw [callRule, jumpTarget_undefined h, Res.bind_raise]

theorem callRule_defined {k : Nat} (h : lookupLabel (labelTable d s) a.value = some k) :
    callRule d a b s = (pushWord (storeWord (callLink s)) s).bind fun _ t => .ok () (t.setIp k) := by
  rw [callRule, jumpTarget_defined h, Res.bind_ok]

/-- A CALL that succeeds pushed its link and jumped. -/
theorem callRule_ok (h : callRule d a b s = .ok () t) :
    0 ≤ (s.cell 7).toInt ∧ (s.cell 7).toInt < s.params.stackSize ∧
      ∃ k, t = (s.pushed (storeWord (callLink s))).setIp k := by
  cases hl : lookupLabel (labelTable d s) a.value with
  | none => cases (callRule_undefined hl).symm.trans h
  | some k =>
    rw [callRule_defined hl] at h
    obtain ⟨_, x, hpush, hjump⟩ := Res.bind_eq_ok.mp h
    obtain ⟨h0, hlt, rfl⟩ := pushWord_ok hpush
    cases hjump
    exact ⟨h0, hlt, k, rfl⟩

theorem retRule_of_popWord_raise {e : RuntimeError} (h : popWord s = .raise e t) : retRule a b s = .raise e t := by
  rw [retRule, h, Res.bind_raise]

/-- The link is checked after the pop (44_subroutine_loop_stack.md R301). -/
theorem retRule_outside {r : Word} (h : popWord s = .ok r t) (hout : r.toInt < 0 ∨ (t.prog.length : Int) ≤ r.toInt) :
    retRule a b s = .raise ⟨7, some r.toInt⟩ t := by
  rw [retRule, h, Res.bind_ok, if_pos hout]
  rfl

theorem retRule_inside {r : Word} (h : popWord s = .ok r t) (h0 : 0 ≤ r.toInt) (hlt : r.toInt < t.prog.length) :
    retRule a b s = .ok () (t.setIp (returnIndex t r.toNat)) := by
  rw [retRule, h, Res.bind_ok, if_neg (not_or.mpr ⟨not_lt.mpr h0, not_le.mpr hlt⟩)]

theorem loopRule_of_pos {addr : Option Int} (h : 0 < (wrap16 ((s.cell 3).toInt - 1)).toInt) :
    loopRule d ⟨addr, some n⟩ b s = jumpTo d n (s.setCell 3 (wrap16 ((s.cell 3).toInt - 1))) := if_pos h

theorem loopRule_of_nonpos {addr : Option Int} (h : (wrap16 ((s.cell 3).toInt - 1)).toInt ≤ 0) :
    loopRule d ⟨addr, some n⟩ b s = .ok () (s.setCell 3 (wrap16 ((s.cell 3).toInt - 1))) := if_neg (not_lt.mpr h)

end

/-! ### The instructions -/

section
variable {dA : Operand} {s t : State} {n a addr : Int}

theorem exec_call (h : ReadsLabel dA s n t) :
    exec (.call dA) s = .next (finish .call (some n) (callRule dA ⟨none, some n⟩ ⟨none, none⟩ t)) := by
  obtain ⟨_, hrun⟩ := runInstr_label (opc := .call) rfl rfl h
  exact hrun _

theorem exec_loop (h : ReadsLabel dA s n t) :
    exec (.loop dA) s = .next (finish .loop (some n) (loopRule dA ⟨none, some n⟩ ⟨none, none⟩ t)) := by
  obtain ⟨_, hrun⟩ := runInstr_label (opc := .loop) rfl rfl h
  exact hrun _

theorem exec_push (h : ReadsValue dA s a t) :
    exec (.push dA) s = .next (finish .push (some a) (pushWord (storeWord a) t)) := by
  obtain ⟨_, hx⟩ := h
  exact runInstr_noDestination (opc := .push) rfl rfl hx (resolve_none _ t) _

theorem exec_doCx (h : ReadsValue dA s a t) :
    exec (.doCx dA) s = .next ((t.setCell 3 (storeWord a)).executed .doCx (some a)) := by
  obtain ⟨_, hx⟩ := h
  exact runInstr_noDestination (opc := .doCx) rfl rfl hx (resolve_none _ t) _

theorem exec_ret (s : State) : exec .ret s = .next (finish .ret none (retRule ⟨none, none⟩ ⟨none, none⟩ s)) :=
  runInstr_noDestination (opc := .ret) (dA := .unused) rfl rfl (resolve_none _ s) (resolve_none _ s) _

/-- RET where SP and the stack are as a push of `link` left them resumes for that link, with SP as before the push. -/
theorem exec_ret_of_pushed {link : Nat} (h0 : 0 ≤ (s.cell 7).toInt) (hlt : (s.cell 7).toInt < s.params.stackSize)
    (hfit : (s.cell 7).toInt < 32767) (hlink : link < s.prog.length) (hlen : s.prog.length ≤ 32768)
    (hsp : t.cell 7 = (s.pushed (storeWord link)).cell 7) (hstack : t.stack = (s.pushed (storeWord link)).stack)
    (hparams : t.params = s.params) (hprog : t.prog = s.prog) :
    exec .ret t = .next (((t.setCell 7 (s.cell 7)).setIp (returnIndex s link)).executed .ret none) := by
  have hint : (storeWord link).toInt = link := storeWord_toInt (by omega) (by omega)
  have hnat : (storeWord link).toNat = link := by
    have hnonneg := toNat_eq_toInt_of_nonneg (w := storeWord link) (by omega)
    omega
  have hpop := popWord_of_pushed h0 hlt hfit hsp hstack hparams
  rw [exec_ret, retRule_inside hpop (by omega) (by rw [setCell_prog, hprog]; omega), finish_ok, hnat,
    returnIndex_setCell, returnIndex_congr hparams hprog]

theorem exec_pop (h : IsDestination dA s addr t) :
    exec (.pop dA) s = .next (finish .pop none (popRule ⟨some addr, none⟩ ⟨none, none⟩ t)) := by
  obtain ⟨hbad, hx⟩ := h
  exact runInstr_ok (opc := .pop) (structuralCheck_passes hbad rfl) hx (resolve_none _ t)

end

/-- An instruction that ended as executed resolved its operands and its rule succeeded: every other end is a fault. -/
theorem runInstr_executed {opc : Opcode} {dA dB : Operand} {rule : Resolved → Resolved → State → Res Unit} {s t : State}
    {cur : Nat} {o : Opcode} (h : runInstr opc dA dB rule s = .next t) (hout : t.outcome = some (.executed cur o)) :
    ∃ a b x y, ReadsOnly s x ∧ rule a b x = .ok () y ∧ t = y.executed opc a.val := by
  obtain ⟨w, -, rfl⟩ | ⟨-, e, v, hA, rfl⟩ | ⟨-, a, v, hA, hB⟩ := runInstr_cases h
  · cases hout
  · cases hout
  · obtain ⟨e, x, hB, rfl⟩ | ⟨b, x, hB, rfl⟩ := hB
    · cases hout
    · have hread := ((resolve_readsOnly dA _ s).of_ok hA).trans ((resolve_readsOnly dB _ v).of_ok hB)
      cases hrule : rule a b x with
      | raise e y => rw [hrule] at hout; cases hout
      | ok _ y => exact ⟨a, b, x, y, hread, hrule, rfl⟩

/-! ### Frames of the stack -/

/-- From `s` to `t`, cells that `p` names and stack slots that `q` names may have changed, `ip`, and the host's answers and
calls, what is owed and the outcome; every other cell and slot and what no instruction writes are as before. -/
structure KeepsSlotsBut (p q : Nat → Prop) (s t : State) : Prop where
  cells : SameCellsBut p s t
  slots : SameSlotsBut q s t
  fixtures : SameFixtures s t

section
variable {p q : Nat → Prop} {s t u : State}

theorem KeepsStoresBut.keepsSlotsBut (h : KeepsStoresBut p s t) (q : Nat → Prop) : KeepsSlotsBut p q s t :=
  ⟨h.cells, fun k _ => congrArg (Cells.get · k) h.stack, h.fixtures⟩

theorem KeepsSlotsBut.trans (h : KeepsSlotsBut p q s t) (h' : KeepsSlotsBut p q t u) : KeepsSlotsBut p q s u :=
  ⟨fun c hc => (h'.cells c hc).trans (h.cells c hc), fun k hk => (h'.slots k hk).trans (h.slots k hk),
    h.fixtures.trans h'.fixtures⟩

theorem KeepsBut.keepsSlotsBut (h : KeepsBut p s t) (q : Nat → Prop) : KeepsSlotsBut p q s t :=
  h.keepsStoresBut.keepsSlotsBut q

/-- The slot of the old SP and SP are all a push writes. -/
theorem pushed_keepsSlotsBut (s : State) (v : Word) :
    KeepsSlotsBut (fun c => c = 7) (fun k => k = (s.cell 7).toNat) s (s.pushed v) := by
  refine ⟨fun c hc => ?_, fun k hk => ?_, ⟨rfl, rfl, rfl, rfl, rfl, rfl, rfl⟩⟩
  · rw [State.pushed, cell_setCell, if_neg hc]
    rfl
  · rw [pushed_stack, Cells.get_set, if_neg hk]

theorem pushWord_keepsSlotsBut (v : Word) (s : State) :
    KeepsSlotsBut (fun c => c = 7) (fun k => k = (s.cell 7).toNat) s (pushWord v s).state := by
  obtain ⟨-, hp⟩ | ⟨-, -, hp⟩ := pushWord_cases v s <;> rw [hp]
  · exact (KeepsBut.refl _ s).keepsSlotsBut _
  · exact pushed_keepsSlotsBut s v

/-- A CALL keeps what its push keeps: its lookup reads, and its jump writes `ip`. -/
theorem callRule_keepsSlotsBut (d : Operand) (a b : Resolved) (s : State) :
    KeepsSlotsBut (fun c => c = 7) (fun k => k = (s.cell 7).toNat) s (callRule d a b s).state := by
  cases hl : lookupLabel (labelTable d s) a.value with
  | none =>
    rw [callRule_undefined hl]
    exact (KeepsBut.refl _ s).keepsSlotsBut _
  | some k =>
    have hpush := pushWord_keepsSlotsBut (storeWord (callLink s)) s
    rw [callRule_defined hl]
    cases hp : pushWord (storeWord (callLink s)) s with
    | raise e t => rwa [hp] at hpush
    | ok _ t =>
      rw [hp] at hpush
      exact hpush.trans ((setIp_keepsStoresBut _ t k).keepsSlotsBut _)

/-- An instruction around a rule that pushes: resolution leaves SP, so the slot is the one SP named before it. -/
theorem runInstr_keepsSlotsBut {opc : Opcode} {dA dB : Operand} {rule : Resolved → Resolved → State → Res Unit}
    (h : runInstr opc dA dB rule s = .next t)
    (hrule : ∀ a b x, KeepsSlotsBut (fun c => c = 7) (fun k => k = (x.cell 7).toNat) x (rule a b x).state) :
    KeepsSlotsBut (fun c => c = 7) (fun k => k = (s.cell 7).toNat) s t := by
  obtain ⟨x, y, hread, hy, hend⟩ := runInstr_stages h
  have hxy : KeepsSlotsBut (fun c => c = 7) (fun k => k = (s.cell 7).toNat) x y := by
    obtain rfl | ⟨a, b, rfl⟩ := hy
    · exact (KeepsBut.refl _ y).keepsSlotsBut _
    · rw [← hread.cell 7]
      exact hrule a b x
  exact (((hread.keepsBut _).keepsSlotsBut _).trans hxy).trans ((hend _).keepsSlotsBut _)

theorem KeepsBut.bind {α β : Type} {r : Res α} {f : α → State → Res β} (h : KeepsBut p s r.state)
    (hf : ∀ a t, KeepsBut p t (f a t).state) : KeepsBut p s (r.bind f).state := by
  cases r with
  | ok a t => exact h.trans (hf a t)
  | raise e t => exact h

/-- SP is all a pop writes; the slot keeps its word. -/
theorem popWord_keepsBut (hsp : p 7) (s : State) : KeepsBut p s (popWord s).state := by
  obtain ⟨-, hp⟩ | ⟨-, -, hp⟩ := popWord_cases s <;> rw [hp]
  · exact .refl p s
  · exact setCell_keepsBut hsp s _

theorem retRule_keepsStoresBut (a b : Resolved) (s : State) :
    KeepsStoresBut (fun c => c = 7) s (retRule a b s).state := by
  have hpop := (popWord_keepsBut (p := fun c => c = 7) rfl s).keepsStoresBut
  cases hr : popWord s with
  | raise e t =>
    rw [hr] at hpop
    rwa [retRule_of_popWord_raise hr]
  | ok r t =>
    rw [hr] at hpop
    by_cases hrange : r.toInt < 0 ∨ (t.prog.length : Int) ≤ r.toInt
    · rwa [retRule_outside hr hrange]
    · rw [retRule_inside hr (by omega) (by omega)]
      exact hpop.trans (setIp_keepsStoresBut _ t _)

/-- POP writes where its destination resolved: SP and the cell the operand's address part names. -/
theorem exec_pop_keepsBut {dA : Operand} (h : exec (.pop dA) s = .next t) :
    KeepsBut (fun x => ∃ c, destinationCell dA s = some c ∧ (x = 7 ∨ x = c)) s t := by
  refine runInstr_keepsBut (opc := .pop) h fun a b v x hA _ => ?_
  obtain ⟨n, _, hn, -⟩ := resolve_destination (u := .w) rfl hA
  have hcell := destinationCell_of_resolve (u := .w) rfl hA hn
  refine (popWord_keepsBut ⟨_, hcell, .inl rfl⟩ x).bind fun w y => writeBack_keepsBut (fun m hm => ?_) w y
  exact ⟨_, destinationCell_of_resolve (u := .w) rfl hA hm, .inr rfl⟩

end

/-! ### The obligations of the family 44_subroutine_loop_stack.md -/

/-- Settles O40: the lookup's fault, then the push's two equations, then the jump. -/
theorem callResult : Obligations.CallResult := by
  intro dA s t n table code h hkind
  have hread := h.readsOnly
  obtain ⟨rfl, rfl⟩ := eq_labelTable_and_labelFaultCode hkind
  rw [exec_call h, ← hread.labelTable_eq, ← hread.cell 7, ← hread.params, ← hread.prevIp, ← hread.ip]
  refine ⟨fun hnone => ?_, fun k hk => ⟨fun hout => ?_, fun h0 hlt => ?_⟩⟩
  · rw [callRule_undefined hnone, finish_raise]
    rfl
  · rw [callRule_defined hk, pushWord_outside _ hout, Res.bind_raise, finish_raise]
  · refine ⟨callLink t, storeWord (callLink t), storeWord ((t.cell 7).toInt + 1), callLink_selfIndex,
      callLink_nextIndex, holds_storeWord _, holds_storeWord _, ?_⟩
    rw [callRule_defined hk, pushWord_inside _ h0 hlt, Res.bind_ok, finish_ok]
    rfl

/-- Settles O43: the CALL pushed its link, RET pops that same word and SP with it, and the two links agree. -/
theorem retReturnsAfterCall : Obligations.RetReturnsAfterCall := by
  intro dA s t h hout hprev hip hlen hfit
  obtain ⟨a, b, x, y, hread, hrule, rfl⟩ := runInstr_executed (opc := .call) h hout
  obtain ⟨h0, hlt, k, rfl⟩ := callRule_ok hrule
  obtain ⟨-, -, hprog⟩ := hread.tables
  rw [← hread.prevIp, ← hprog] at hprev
  rw [← hread.prevIp, ← hprog, ← hread.ip] at hip
  rw [← hprog] at hlen
  rw [← hread.cell 7] at hfit
  have hret := exec_ret_of_pushed h0 hlt hfit (callLink_lt hprev hip) hlen
    (t := ((x.pushed (storeWord (callLink x))).setIp k).executed .call a.val)
    (by simp) (by simp) (by simp) (by simp)
  rw [returnIndex_callLink hip] at hret
  refine ⟨_, hret, ?_, ?_, ?_⟩
  · simp [hread.prevIp]
  · simp [hread.ip]
  · simp [hread.cell]

/-- Settles O55: each frame is the push's, the pop's, or the pop's with the destination's. -/
theorem frameOfStackInstructions : Obligations.FrameOfStackInstructions := by
  intro i dA s t h
  refine ⟨fun hi => ?_, fun hi => ?_, fun hi => ?_⟩
  · obtain ⟨hcells, hslots, hfix⟩ :
        KeepsSlotsBut (fun c => c = 7) (fun k => k = (s.cell 7).toNat) s t := by
      obtain rfl | rfl := hi
      · exact runInstr_keepsSlotsBut (opc := .call) h (callRule_keepsSlotsBut dA)
      · exact runInstr_keepsSlotsBut (opc := .push) h fun a _ x => pushWord_keepsSlotsBut _ x
    exact ⟨hcells, hslots, hfix⟩
  · subst hi
    obtain ⟨hcells, hstack, hfix⟩ := runInstr_keepsStoresBut (opc := .ret) (dA := .unused) h retRule_keepsStoresBut
    exact ⟨hcells, hstack, hfix⟩
  · subst hi
    obtain ⟨hcells, hstack, hip, hfix⟩ := exec_pop_keepsBut h
    refine ⟨fun c hc x hx => hcells x ?_, fun hnone x _ => hcells x ?_, hstack, hip, hfix⟩
    · rintro ⟨c', hc', hx'⟩
      obtain rfl : c' = c := Option.some.inj (hc'.symm.trans hc)
      exact hx hx'
    · rintro ⟨c, hc, -⟩
      cases hnone.symm.trans hc

/-- Settles O41, by the equations of the pop and of the link's check after it. -/
theorem retResult : Obligations.RetResult := by
  intro s
  rw [exec_ret]
  refine ⟨fun hout => ?_, fun h0 hle => ⟨_, rfl, fun hout => ?_, fun hr hlt hself => ?_, fun hr hlt hnext => ?_⟩⟩
  · rw [retRule_of_popWord_raise (popWord_outside hout), finish_raise]
  · rw [retRule_outside (popWord_inside h0 hle) hout, finish_raise]
  · rw [retRule_inside (popWord_inside h0 hle) hr hlt, finish_ok, returnIndex_setCell,
      returnIndex_selfIndex hself]
  · rw [retRule_inside (popWord_inside h0 hle) hr hlt, finish_ok, returnIndex_setCell,
      returnIndex_nextIndex hnext]

/-- Settles O42: PUSH is the push of its value, POP the pop and then the store to its destination. -/
theorem pushPopResults : Obligations.PushPopResults := by
  refine ⟨fun dA s t a h => ?_, fun dA s t addr h => ?_⟩
  · have hread := h.readsOnly
    rw [exec_push h, ← hread.cell 7, ← hread.params]
    refine ⟨fun hout => ?_, fun h0 hlt => ⟨storeWord a, storeWord ((t.cell 7).toInt + 1), holds_storeWord _,
      holds_storeWord _, ?_⟩⟩
    · rw [pushWord_outside _ hout, finish_raise]
    · rw [pushWord_inside _ h0 hlt, finish_ok]
      rfl
  · obtain ⟨hbad, hx⟩ := h
    have hread := (resolve_readsOnly dA _ s).of_ok hx
    rw [exec_pop ⟨hbad, hx⟩, ← hread.cell 7, ← hread.params, ← hread.stack, popRule]
    refine ⟨fun hout => ?_, fun h0 hle => ?_⟩
    · rw [popWord_outside hout, Res.bind_raise, finish_raise]
    · rw [popWord_inside h0 hle, Res.bind_ok, writeBack_some, finish_ok]

/-- Settles O44: DO stores its value; LOOP stores CX and then falls through or ends as `jumpTo` does. -/
theorem doLoopResults : Obligations.DoLoopResults := by
  refine ⟨fun dA s t a h => ⟨storeWord a, holds_storeWord a, exec_doCx h⟩, fun dA s t n c table code h hc hkind => ?_⟩
  have hread := h.readsOnly
  obtain ⟨rfl, rfl⟩ := eq_labelTable_and_labelFaultCode hkind
  rw [← hread.cell 3] at hc
  subst hc
  rw [exec_loop h, ← hread.labelTable_eq]
  refine ⟨fun hle => ?_, fun hpos => ⟨fun k hk => ?_, fun hnone => ?_⟩⟩
  · rw [loopRule_of_nonpos hle, finish_ok]
  · rw [loopRule_of_pos hpos, jumpTo_defined (s := t.setCell 3 _) hk, finish_ok]
  · rw [loopRule_of_pos hpos, jumpTo_undefined (s := t.setCell 3 _) hnone, finish_raise]

end Sys2Proof.Machine
end

section
/-! PROOFS of the family 45_move.md. The frames of XCHG, IPO and PUT are those of their rules' writes, each to the cell
that the operand's resolution names, B's taken in the state A's resolution left. The results are the rules on what the
operands resolved to: MOV, LOC and GET have a destination that is not read, XCHG two that are, PUT none. -/

namespace Sys2Proof.Machine

/-! ### Frames of the rules -/

section
variable {p : Nat → Prop} {s t : State}

theorem keepsBut_iff :
    KeepsBut p s t ↔ SameCellsBut p s t ∧ t.stack = s.stack ∧ t.ip = s.ip ∧ SameFixtures s t :=
  ⟨fun ⟨hcells, hstack, hip, hfix⟩ => ⟨hcells, hstack, hip, hfix⟩,
    fun ⟨hcells, hstack, hip, hfix⟩ => ⟨hcells, hstack, hip, hfix⟩⟩

theorem stateAfter_of_resolve {d : Operand} {u : Usage} {x : Resolved} (h : resolve d u s = .ok x t) :
    stateAfter d u s = t := by
  rw [stateAfter, h]

theorem call_keepsBut (p : Nat → Prop) (s : State) (c : HostCall) : KeepsBut p s (s.call c) :=
  ⟨fun _ _ => rfl, rfl, rfl, ⟨rfl, rfl, rfl, rfl, rfl, rfl, rfl⟩⟩

theorem portIn_keepsBut (p : Nat → Prop) (port : Int) (s : State) : KeepsBut p s (portIn port s).state := by
  unfold portIn
  split <;> exact call_keepsBut p s _

/-- A write reaches the cell of its address, which is none where the address is negative (20_memory.md R76). -/
theorem memWrite_keepsBut {a : Int} (ha : 0 ≤ a → p a.toNat) (v : Word) (s : State) :
    KeepsBut p s (memWrite a v s).state := by
  obtain ⟨h0, -, hw⟩ | ⟨-, -, hw⟩ | ⟨-, hw⟩ := memWrite_cases a v s <;> rw [hw]
  · exact setCell_keepsBut (ha h0) s v
  · exact .refl p s
  · exact .refl p s

theorem xchgRule_keepsBut {a b : Resolved} (ha : ∀ n : Int, a.addr = some n → p n.toNat)
    (hb : ∀ n : Int, b.addr = some n → p n.toNat) (s : State) : KeepsBut p s (xchgRule a b s).state :=
  (writeBack_keepsBut ha _ s).bind fun _ x => writeBack_keepsBut hb _ x

/-- IPO writes B alone: the port check and the host's call store to no cell (46_system_io.md R366). -/
theorem ipoRule_keepsBut (a : Resolved) {b : Resolved} (hb : ∀ n : Int, b.addr = some n → p n.toNat) (s : State) :
    KeepsBut p s (ipoRule a b s).state :=
  ((readsOnly_of_state_eq (checkPortIn_state a.value s)).keepsBut p).bind fun _ x =>
    (portIn_keepsBut p a.value x).bind fun v y => writeBack_keepsBut hb v y

/-- PUT's cell is the value of B where that is not negative, as `putCell` resolves it. -/
theorem putCell_of_resolve {dA dB : Operand} {u : State} {a b : Resolved} (hA : resolve dA .r s = .ok a t)
    (hB : resolve dB .r t = .ok b u) (h0 : 0 ≤ b.value) : putCell dA dB s = some b.value.toNat := by
  rw [putCell, stateAfter_of_resolve hA, hB]
  exact if_neg (not_lt.mpr h0)

end

/-! ### What an instruction with a destination A does -/

section
variable {opc : Opcode} {dA dB : Operand} {s t u : State} {addr b : Int} {y : Resolved}

/-- With a destination that is not read as A and a B that is no destination, an instruction is its rule on what they
resolved to. -/
theorem runInstr_destination (hA : useA opc = .w) (hB : (useB opc).writes = false) (h : IsDestination dA s addr t)
    (hy : resolve dB (useB opc) t = .ok y u) (rule : Resolved → Resolved → State → Res Unit) :
    runInstr opc dA dB rule s = .next (finish opc none (rule ⟨some addr, none⟩ y u)) := by
  obtain ⟨hbad, hx⟩ := h
  rw [← hA] at hbad hx
  exact runInstr_ok (structuralCheck_passes hbad (structurallyBad_of_not_writes hB)) hx hy

theorem exec_mov (h : IsDestination dA s addr t) (h' : ReadsValue dB t b u) :
    exec (.mov dA dB) s = .next ((u.setCell addr.toNat (storeWord b)).executed .mov none) := by
  obtain ⟨_, hy⟩ := h'
  exact runInstr_destination (opc := .mov) rfl rfl h hy _

theorem exec_loc (h : IsDestination dA s addr t) (h' : HasEffectiveAddress dB t b u) :
    exec (.loc dA dB) s = .next ((u.setCell addr.toNat (storeWord b)).executed .loc none) :=
  runInstr_destination (opc := .loc) rfl rfl h h' _

/-- Each operand of XCHG is a word's, so each is stored as it was read (45_move.md R331). -/
theorem exec_xchg {addrA addrB : Int} {wa wb : Word} (h : IsReadDestination dA s addrA wa.toInt t)
    (h' : IsReadDestination dB t addrB wb.toInt u) :
    exec (.xchg dA dB) s =
      .next (((u.setCell addrA.toNat wb).setCell addrB.toNat wa).executed .xchg (some wa.toInt)) := by
  obtain ⟨hbadA, hx⟩ := h
  obtain ⟨hbadB, hy⟩ := h'
  have hrule : xchgRule ⟨some addrA, some wa.toInt⟩ ⟨some addrB, some wb.toInt⟩ u =
      .ok () ((u.setCell addrA.toNat wb).setCell addrB.toNat wa) := by
    simp [xchgRule, Resolved.value]
  have hrun := runInstr_ok (opc := .xchg) (rule := xchgRule) (structuralCheck_passes hbadA hbadB) hx hy
  rwa [hrule, finish_ok] at hrun

/-- GET is the read at B's value and then the store to A (45_move.md R333). -/
theorem exec_get (h : IsDestination dA s addr t) (h' : ReadsValue dB t b u) :
    exec (.get dA dB) s = .next (finish .get none
      ((memRead b u).bind fun v x => .ok () (x.setCell addr.toNat v))) := by
  obtain ⟨_, hy⟩ := h'
  exact runInstr_destination (opc := .get) rfl rfl h hy _

/-- PUT is the write of A's value at B's value (45_move.md R334). -/
theorem exec_put {a : Int} (h : ReadsValue dA s a t) (h' : ReadsValue dB t b u) :
    exec (.put dA dB) s = .next (finish .put (some a) (memWrite b (storeWord a) u)) := by
  obtain ⟨_, hx⟩ := h
  obtain ⟨_, hy⟩ := h'
  exact runInstr_noDestination (opc := .put) rfl rfl hx hy _

end

/-! ### The obligations of the family 45_move.md -/

/-- Settles O56: each rule writes to the cells its operands name, B's in the state A's resolution left. -/
theorem frameOfXchgIpoPut : Obligations.FrameOfXchgIpoPut := by
  intro dA dB s t
  refine ⟨fun h => ?_, fun h => ?_, fun h => ?_⟩ <;> rw [← keepsBut_iff]
  · refine runInstr_keepsBut (opc := .xchg) h fun a b v x hA hB => xchgRule_keepsBut (fun n hn => .inl ?_)
      (fun n hn => .inr ?_) x
    · exact destinationCell_of_resolve (u := .rw) rfl hA hn
    · rw [stateAfter_of_resolve (u := .rw) hA]
      exact destinationCell_of_resolve (u := .rw) rfl hB hn
  · refine runInstr_keepsBut (opc := .ipo) h fun a b v x hA hB => ipoRule_keepsBut a (fun n hn => ?_) x
    rw [stateAfter_of_resolve (u := .r) hA]
    exact destinationCell_of_resolve (u := .w) rfl hB hn
  · exact runInstr_keepsBut (opc := .put) h fun a b v x hA hB => memWrite_keepsBut (putCell_of_resolve hA hB) _ x

/-- Settles O45: MOV and LOC store `storeWord` of a value that may be a record index; both values of XCHG are words. -/
theorem movXchgLocResults : Obligations.MovXchgLocResults := by
  refine ⟨fun dA dB s t u addr b h h' => ⟨_, holds_storeWord b, exec_mov h h'⟩,
    fun dA dB s t u addrA addrB a b h h' => ?_, fun dA dB s t u addr b h h' => ⟨_, holds_storeWord b, exec_loc h h'⟩⟩
  obtain ⟨wa, rfl⟩ := h.isWord
  obtain ⟨wb, rfl⟩ := h'.isWord
  exact ⟨wa, wb, rfl, rfl, exec_xchg h h'⟩

/-- Settles O46: GET ends as its read does; PUT by the equation of the write at each region. -/
theorem getPutResults : Obligations.GetPutResults := by
  refine ⟨fun dA dB s t u addr b h h' => ⟨fun v x hr => ?_, fun e x hr => ?_⟩, fun dA dB s t u a b h h' => ?_⟩
  · rw [exec_get h h', hr, Res.bind_ok, finish_ok]
  · rw [exec_get h h', hr, Res.bind_raise, finish_raise]
  · obtain ⟨-, -, hprog⟩ := (h.readsOnly.trans h'.readsOnly).tables
    rw [exec_put h h', ← hprog]
    refine ⟨fun h0 hlt => ⟨storeWord a, holds_storeWord a, ?_⟩, fun hlo hhi => ?_, fun hout => ?_⟩
    · rw [memWrite_cell _ u h0 hlt, finish_ok]
    · rw [memWrite_mirror _ hlo hhi, finish_raise]
    · rw [memWrite_outside _ hout, finish_raise]

end Sys2Proof.Machine
end

section
/-! PROOFS of the family 46_system_io.md. An instruction that stores nothing keeps memory and stack as they are, not
only what the cells read as: the stages around a rule keep them, and so does each rule of these instructions. The
results are the rules on what the operands resolved to; the port check and each host call have one equation per case. -/

namespace Sys2Proof.Machine

/-! ### Frames of the instructions that store nothing -/

/-- From `s` to `t`, `ip`, and the host's answers and calls, what is owed and the outcome may have changed; memory,
stack and what no instruction writes are the same. -/
structure KeepsStores (s t : State) : Prop where
  mem : t.mem = s.mem
  stack : t.stack = s.stack
  fixtures : SameFixtures s t

section
variable {s t u : State}

theorem KeepsStores.refl (s : State) : KeepsStores s s := ⟨rfl, rfl, ⟨rfl, rfl, rfl, rfl, rfl, rfl, rfl⟩⟩

theorem KeepsStores.trans (h : KeepsStores s t) (h' : KeepsStores t u) : KeepsStores s u :=
  ⟨h'.mem.trans h.mem, h'.stack.trans h.stack, h.fixtures.trans h'.fixtures⟩

/-- Beside a frame of cells, it is enough that memory is the same list. -/
theorem KeepsStoresBut.keepsStores {p : Nat → Prop} (h : KeepsStoresBut p s t) (hmem : t.mem = s.mem) :
    KeepsStores s t := ⟨hmem, h.stack, h.fixtures⟩

theorem KeepsBut.keepsStores {p : Nat → Prop} (h : KeepsBut p s t) (hmem : t.mem = s.mem) : KeepsStores s t :=
  h.keepsStoresBut.keepsStores hmem

theorem ReadsOnly.keepsStores (h : ReadsOnly s t) : KeepsStores s t := by
  obtain ⟨hmem, -⟩ := h.eq
  exact (h.keepsBut fun _ => False).keepsStores hmem

theorem setIp_keepsStores (s : State) (k : Nat) : KeepsStores s (s.setIp k) :=
  (setIp_keepsStoresBut (fun _ => False) s k).keepsStores rfl

theorem call_keepsStores (s : State) (c : HostCall) : KeepsStores s (s.call c) :=
  (call_keepsBut (fun _ => False) s c).keepsStores rfl

theorem skipped_keepsStores (s : State) : KeepsStores s s.skipped := ⟨rfl, rfl, ⟨rfl, rfl, rfl, rfl, rfl, rfl, rfl⟩⟩

theorem runtimeError_keepsStores (s : State) (opc : Option Opcode) (arg : Option Int) (e : RuntimeError) :
    KeepsStores s (s.runtimeError opc arg e) :=
  (runtimeError_keepsBut (fun _ => False) s opc arg e).keepsStores (runtimeError_mem s opc arg e)

theorem finish_keepsStores {r : Res Unit} (h : KeepsStores s r.state) (opc : Opcode) (arg : Option Int) :
    KeepsStores s (finish opc arg r) := by
  cases r with
  | ok _ t => exact h.trans ((executed_keepsBut (fun _ => False) t opc arg).keepsStores (executed_mem t opc arg))
  | raise e t => exact h.trans (runtimeError_keepsStores t _ arg e)

/-- The rule stores to no cell and no stack slot, whatever its operands resolved to. -/
def RuleStoresNothing (rule : Resolved → Resolved → State → Res Unit) : Prop :=
  ∀ a b s, KeepsStores s (rule a b s).state

/-- The stages around a rule read, commit and report. -/
theorem runInstr_keepsStores {opc : Opcode} {dA dB : Operand} {rule : Resolved → Resolved → State → Res Unit}
    (h : runInstr opc dA dB rule s = .next t) (hrule : RuleStoresNothing rule) : KeepsStores s t := by
  obtain ⟨w, -, rfl⟩ | ⟨-, e, v, hA, rfl⟩ | ⟨-, a, v, hA, hB⟩ := runInstr_cases h
  · exact runtimeError_keepsStores s _ _ _
  · exact ((resolve_readsOnly dA _ s).of_raise hA).keepsStores.trans (runtimeError_keepsStores v _ _ e)
  · refine ((resolve_readsOnly dA _ s).of_ok hA).keepsStores.trans ?_
    obtain ⟨e, x, hB, rfl⟩ | ⟨b, x, hB, rfl⟩ := hB
    · exact ((resolve_readsOnly dB _ v).of_raise hB).keepsStores.trans (runtimeError_keepsStores x _ _ e)
    · exact ((resolve_readsOnly dB _ v).of_ok hB).keepsStores.trans (finish_keepsStores (hrule a b x) opc a.val)

theorem jumpTo_keepsStores (d : Operand) (n : Int) (s : State) : KeepsStores s (jumpTo d n s).state := by
  cases h : lookupLabel (labelTable d s) n with
  | none => rw [jumpTo_undefined h]; exact .refl s
  | some k => rw [jumpTo_defined h]; exact setIp_keepsStores s k

theorem jumpIf_storesNothing (cond : Word → Bool) (d : Operand) : RuleStoresNothing (jumpIf cond d) := by
  intro a b s
  unfold jumpIf
  split
  · exact jumpTo_keepsStores d _ s
  · exact .refl s

theorem jumpToIndex_storesNothing : RuleStoresNothing jumpToIndex := by
  intro a b s
  unfold jumpToIndex
  split
  · exact .refl s
  · exact setIp_keepsStores s _

theorem portOut_keepsStores (p v : Int) (s : State) : KeepsStores s (portOut p v s).state := by
  unfold portOut
  split <;> exact call_keepsStores s _

/-- The port check changes nothing and the host's call stores nothing (46_system_io.md R367). -/
theorem opoRule_storesNothing : RuleStoresNothing opoRule := by
  intro a b s
  have hcheck := checkPortOut_state a.value s
  unfold opoRule
  cases hr : checkPortOut a.value s with
  | ok _ t =>
    obtain rfl : t = s := by rwa [hr] at hcheck
    exact portOut_keepsStores a.value b.value t
  | raise e t =>
    obtain rfl : t = s := by rwa [hr] at hcheck
    exact .refl t

/-- An opcode's instruction that `storesNothing` names is the stages of the step around a rule that stores nothing. -/
theorem exec_instr_of_storesNothing {o : Opcode} {dA dB : Operand} (h : storesNothing (o.instr dA dB) = true) :
    ∃ x y rule, exec (o.instr dA dB) = runInstr o x y rule ∧ RuleStoresNothing rule := by
  cases o with
  | nop => exact ⟨.unused, .unused, fun _ _ s => .ok () s, rfl, fun _ _ s => .refl s⟩
  | delay | err => exact ⟨_, _, _, rfl, fun _ _ s => .refl s⟩
  | opo => exact ⟨_, _, _, rfl, opoRule_storesNothing⟩
  | jmp => exact ⟨_, _, _, rfl, fun _ _ s => jumpTo_keepsStores dA _ s⟩
  | jtl => exact ⟨_, _, _, rfl, jumpToIndex_storesNothing⟩
  | jls | jgr | jne | jeq | jz | jnz | jae | jbe => exact ⟨_, _, _, rfl, jumpIf_storesNothing _ dA⟩
  | _ => cases h

/-- A label marker changes the outcome alone; the other instructions of `storesNothing` keep what their rule keeps. -/
theorem exec_keepsStores {i : Instr} (hi : storesNothing i = true) (h : exec i s = .next t) : KeepsStores s t := by
  obtain ⟨o, dA, dB, rfl⟩ | ⟨w, b, rfl | rfl⟩ := eq_instr_or_marker i
  · obtain ⟨x, y, rule, hexec, hrule⟩ := exec_instr_of_storesNothing hi
    rw [hexec] at h
    exact runInstr_keepsStores h hrule
  · cases h
    exact skipped_keepsStores s
  · cases h
    exact skipped_keepsStores s

end

/-! ### The cost of DELAY -/

theorem lookupCost_of_not_mem {α : Type} [DecidableEq α] {table : List (α × Nat)} {k : α}
    (h : ∀ c, (k, c) ∉ table) (default : Nat) : lookupCost table k default = default := by
  induction table with
  | nil => rfl
  | cons e table ih =>
    obtain ⟨k', c⟩ := e
    have hne : k' ≠ k := by
      rintro rfl
      exact h c List.mem_cons_self
    rw [lookupCost, if_neg hne]
    exact ih fun c' hc' => h c' (List.mem_cons_of_mem _ hc')

/-- An argument and an opcode without an entry cost what the document says (40_execution_cycle.md R174). -/
theorem penaltyOf_of_not_mem {p : Params} {opc : Opcode} {a : Int} (harg : ∀ c, ((opc, a), c) ∉ p.argCost)
    (hopc : ∀ c, (opc, c) ∉ p.opcodeCost) : penaltyOf p opc (some a) = documentCost opc a := by
  rw [penaltyOf_some, lookupCost_of_not_mem harg, lookupCost_of_not_mem hopc]

/-- What an instruction with a cost commits (40_execution_cycle.md R176). -/
theorem executed_of_cost_ne_zero {s : State} {opc : Opcode} {arg : Option Int} {c : Nat}
    (h : penaltyOf s.params opc arg = c) (hc : c ≠ 0) :
    s.executed opc arg = { s with penalty := c, micro := 0, outcome := some (.executed s.prevIp opc) } := by
  rw [State.executed, h, State.commit, if_neg hc]

/-! ### The host's calls -/

/-- A host error is raised with its own code (60_exceptions.md R400, R402). -/
theorem hostErrorKind_error (k : HostError) (info : Option Int) :
    (hostErrorKind k).error info = ⟨reportedCode k, info⟩ := by
  cases k <;> rfl

section
variable {p n v : Int} {s : State} {w : Word} {k : HostError} {ws : List (Fin 14 × Word)}

theorem checkPortIn_invalid (h : portDir s.params.portTable p = none) :
    checkPortIn p s = .raise ⟨11, some p⟩ s := by
  rw [checkPortIn, h]
  rfl

theorem checkPortIn_output (h : portDir s.params.portTable p = some .output) :
    checkPortIn p s = .raise ⟨17, some p⟩ s := by
  rw [checkPortIn, h]
  rfl

theorem checkPortIn_ok (h : portDir s.params.portTable p = some .input ∨ portDir s.params.portTable p = some .both) :
    checkPortIn p s = .ok () s := by
  obtain h | h := h <;> rw [checkPortIn, h]

theorem checkPortOut_invalid (h : portDir s.params.portTable p = none) :
    checkPortOut p s = .raise ⟨11, some p⟩ s := by
  rw [checkPortOut, h]
  rfl

theorem checkPortOut_input (h : portDir s.params.portTable p = some .input) :
    checkPortOut p s = .raise ⟨16, some p⟩ s := by
  rw [checkPortOut, h]
  rfl

theorem checkPortOut_ok (h : portDir s.params.portTable p = some .output ∨ portDir s.params.portTable p = some .both) :
    checkPortOut p s = .ok () s := by
  obtain h | h := h <;> rw [checkPortOut, h]

theorem portIn_ok (h : s.now.portIn = .ok w) : portIn p s = .ok w (s.call (.portIn p)) := by
  rw [portIn, h]

theorem portIn_err (h : s.now.portIn = .err k) :
    portIn p s = .raise ⟨reportedCode k, some p⟩ (s.call (.portIn p)) := by
  rw [portIn, h, ← hostErrorKind_error]

theorem portOut_ok (h : s.now.portOut = .ok ()) : portOut p v s = .ok () (s.call (.portOut p v)) := by
  rw [portOut, h]

theorem portOut_err (h : s.now.portOut = .err k) :
    portOut p v s = .raise ⟨reportedCode k, some p⟩ (s.call (.portOut p v)) := by
  rw [portOut, h, ← hostErrorKind_error]

theorem hostInterrupt_ok (h : s.now.interrupt = .ok ws) :
    hostInterrupt n s = .ok () ((s.call (.interrupt n s.registers)).applyWrites ws) := by
  rw [hostInterrupt, h]

theorem hostInterrupt_err (h : s.now.interrupt = .err k) :
    hostInterrupt n s = .raise ⟨reportedCode k, some n⟩ (s.call (.interrupt n s.registers)) := by
  rw [hostInterrupt, h, ← hostErrorKind_error]

end

/-- Reads leave the answers to the port and interrupt calls for the rule after them. -/
theorem ReadsOnly.answers {s t : State} (h : ReadsOnly s t) :
    t.now.portIn = s.now.portIn ∧ t.now.portOut = s.now.portOut ∧ t.now.interrupt = s.now.interrupt := by
  obtain ⟨as, rfl⟩ := h
  exact ⟨rfl, rfl, rfl⟩

/-- The host sees the registers as they were before the operand was read (60_exceptions.md R412). -/
theorem ReadsOnly.registers {s t : State} (h : ReadsOnly s t) : t.registers = (List.range 8).map s.cell := by
  have hcells : t.cell = s.cell := funext h.cell
  rw [← hcells]
  rfl

/-! ### The rules -/

section
variable {n : Int} {addr : Option Int} {b : Resolved} {s : State}

theorem intRule_invalid (h : n ∉ s.params.intTable) : intRule ⟨addr, some n⟩ b s = .raise ⟨10, some n⟩ s :=
  if_pos h

theorem intRule_softReset (h : n ∈ s.params.intTable) (hreset : n = s.params.softResetInt) :
    intRule ⟨addr, some n⟩ b s = .ok () s.softReset :=
  (if_neg (not_not_intro h)).trans (if_pos hreset)

theorem intRule_host (h : n ∈ s.params.intTable) (hne : n ≠ s.params.softResetInt) :
    intRule ⟨addr, some n⟩ b s = hostInterrupt n s :=
  (if_neg (not_not_intro h)).trans (if_neg hne)

end

/-! ### The instructions -/

section
variable {dA dB : Operand} {s t u : State} {a b addr : Int}

theorem IsDestination.readsOnly (h : IsDestination dA s addr t) : ReadsOnly s t := by
  obtain ⟨-, hx⟩ := h
  exact (resolve_readsOnly dA _ s).of_ok hx

theorem exec_nop (s : State) : exec .nop s = .next (s.executed .nop none) :=
  runInstr_noDestination (opc := .nop) (dA := .unused) (dB := .unused) rfl rfl (resolve_none _ s) (resolve_none _ s)
    fun _ _ s => .ok () s

theorem exec_delay (h : ReadsValue dA s a t) : exec (.delay dA) s = .next (t.executed .delay (some a)) := by
  obtain ⟨_, hx⟩ := h
  exact runInstr_noDestination (opc := .delay) rfl rfl hx (resolve_none _ t) _

theorem exec_err (h : ReadsValue dA s a t) :
    exec (.err dA) s = .next (t.runtimeError (some .err) (some a) ⟨a, none⟩) := by
  obtain ⟨_, hx⟩ := h
  exact runInstr_noDestination (opc := .err) rfl rfl hx (resolve_none _ t) _

theorem exec_int (h : ReadsValue dA s a t) :
    exec (.int dA) s = .next (finish .int (some a) (intRule ⟨none, some a⟩ ⟨none, none⟩ t)) := by
  obtain ⟨_, hx⟩ := h
  exact runInstr_noDestination (opc := .int) rfl rfl hx (resolve_none _ t) _

/-- IPO is the port check, then the host's call, then the store to B (46_system_io.md R366). -/
theorem exec_ipo (h : ReadsValue dA s a t) (h' : IsDestination dB t addr u) :
    exec (.ipo dA dB) s = .next (finish .ipo (some a) ((checkPortIn a u).bind fun _ x =>
      (portIn a x).bind fun v y => .ok () (y.setCell addr.toNat v))) := by
  obtain ⟨_, hx⟩ := h
  obtain ⟨hbad, hy⟩ := h'
  exact runInstr_ok (opc := .ipo) (structuralCheck_passes (structurallyBad_of_not_writes rfl) hbad) hx hy

/-- OPO is the port check and then the host's call (46_system_io.md R367). -/
theorem exec_opo (h : ReadsValue dA s a t) (h' : ReadsValue dB t b u) :
    exec (.opo dA dB) s =
      .next (finish .opo (some a) ((checkPortOut a u).bind fun _ x => portOut a b x)) := by
  obtain ⟨_, hx⟩ := h
  obtain ⟨_, hy⟩ := h'
  exact runInstr_noDestination (opc := .opo) rfl rfl hx hy _

end

/-! ### The obligations of the family 46_system_io.md -/

/-- Settles O53, by the frame of each rule that stores nothing. -/
theorem frameOfStoringNothing : Obligations.FrameOfStoringNothing := by
  intro i s t hi h
  obtain ⟨hmem, hstack, hfix⟩ := exec_keepsStores hi h
  exact ⟨hmem, hstack, hfix⟩

/-- Settles O47: NOP and DELAY commit and ERR raises; DELAY's default cost is at least 1, so its commit owes it. -/
theorem nopDelayErrResults : Obligations.NopDelayErrResults := by
  refine ⟨exec_nop, fun dA s t a h => ⟨exec_delay h, fun harg hopc => ?_⟩, fun _ _ _ _ h => exec_err h⟩
  have hread := h.readsOnly
  rw [← hread.params] at harg hopc
  have hcost : penaltyOf t.params .delay (some a) = max 1 a.toNat := penaltyOf_of_not_mem harg hopc
  refine ⟨max 1 a.toNat, by omega, ?_⟩
  rw [exec_delay h, executed_of_cost_ne_zero hcost (by omega), hread.prevIp]

/-- Settles O48: the rule's three cases, and the host's answer in the last. -/
theorem intResults : Obligations.IntResults := by
  intro dA s t a h
  have hread := h.readsOnly
  obtain ⟨-, -, hanswer⟩ := hread.answers
  rw [exec_int h, ← hread.params, ← hanswer, ← hread.registers]
  refine ⟨fun hout => ?_, fun hin hreset => ?_, fun hin hne => ⟨fun ws hws => ?_, fun k hk => ?_⟩⟩
  · rw [intRule_invalid hout, finish_raise]
  · rw [intRule_softReset hin hreset, finish_ok]
    rfl
  · rw [intRule_host hin hne, hostInterrupt_ok hws, finish_ok, applyWrites_eq_foldl]
    rfl
  · rw [intRule_host hin hne, hostInterrupt_err hk, finish_raise]
    rfl

/-- Settles O49: the port check's three cases, and the host's answer where it passes. -/
theorem ipoResults : Obligations.IpoResults := by
  intro dA dB s t u a addr h h'
  have hread := h.readsOnly.trans h'.readsOnly
  obtain ⟨hanswer, -, -⟩ := hread.answers
  rw [exec_ipo h h', ← hread.params, ← hanswer]
  refine ⟨fun hnone => ?_, fun hout => ?_, fun hin => ⟨fun v hv => ?_, fun k hk => ?_⟩⟩
  · rw [checkPortIn_invalid hnone, Res.bind_raise, finish_raise]
  · rw [checkPortIn_output hout, Res.bind_raise, finish_raise]
  · rw [checkPortIn_ok hin, Res.bind_ok, portIn_ok hv, Res.bind_ok, finish_ok]
    rfl
  · rw [checkPortIn_ok hin, Res.bind_ok, portIn_err hk, Res.bind_raise, finish_raise]
    rfl

/-- Settles O50: the port check's three cases, and the host's answer where it passes. -/
theorem opoResults : Obligations.OpoResults := by
  intro dA dB s t u a b h h'
  have hread := h.readsOnly.trans h'.readsOnly
  obtain ⟨-, hanswer, -⟩ := hread.answers
  rw [exec_opo h h', ← hread.params, ← hanswer]
  refine ⟨fun hnone => ?_, fun hin => ?_, fun hout => ⟨fun hok => ?_, fun k hk => ?_⟩⟩
  · rw [checkPortOut_invalid hnone, Res.bind_raise, finish_raise]
  · rw [checkPortOut_input hin, Res.bind_raise, finish_raise]
  · rw [checkPortOut_ok hout, Res.bind_ok, portOut_ok hok, finish_ok]
    rfl
  · rw [checkPortOut_ok hout, Res.bind_ok, portOut_err hk, finish_raise]
    rfl

end Sys2Proof.Machine
end

section
/-! PROOFS of the family 60_exceptions.md. A step ends in a next state on each of its ways, as `runInstr` does. INT is its
rule's three cases, and only the software reset reaches what the host's writes cannot. A faulting instruction keeps what
its rule keeps where that raises: `FaultKeeps p s r` says it of one result, sequencing keeps it, and so it holds of every
rule, with no cell in `p` but for LOOP and RET. -/

namespace Sys2Proof.Machine

/-! ### Every step has a next state -/

theorem exec_next (i : Instr) (s : State) : ∃ t, exec i s = .next t := by
  obtain ⟨o, dA, dB, rfl⟩ | ⟨w, b, rfl | rfl⟩ := eq_instr_or_marker i
  · obtain ⟨rule, hexec⟩ := exec_instr o dA dB
    rw [hexec]
    exact runInstr_next o dA dB rule s
  · exact ⟨_, rfl⟩
  · exact ⟨_, rfl⟩

theorem runDecoded_next (d : Decoded) (s : State) : ∃ t, runDecoded d s = .next t := by
  cases d with
  | instr i => exact exec_next i s
  | reject why =>
    cases why with
    | reservedOpcodeNibble w0 => exact ⟨_, runDecoded_reservedOpcodeNibble w0 s⟩
    | unknownOpcode opc => exact ⟨_, runDecoded_unknownOpcode opc s⟩
  | opcodeInMemory d0 dA dB =>
    cases hr : resolveOpcode d0 s with
    | raise e u => exact ⟨_, runDecoded_opcodeInMemory_raise hr⟩
    | ok n u =>
      cases ho : Opcode.ofNumber n with
      | none => exact ⟨_, runDecoded_opcodeInMemory_unknown hr ho⟩
      | some o =>
        rw [runDecoded_opcodeInMemory_ok hr ho]
        exact exec_next _ u

/-- Where `ip` names a record, every way through the step has a next state (70_reset_and_hazards.md R456). -/
theorem step_next {s : State} (hip : s.ip < s.prog.length) : ∃ t, step s = .next t := by
  cases hdis : s.beginStep.now.disabled with
  | true => exact ⟨_, step_disabled hdis⟩
  | false =>
    obtain hpen | hpen := Nat.eq_zero_or_pos s.penalty
    · rw [step_fetch hdis hpen (List.getElem?_eq_getElem hip)]
      exact runDecoded_next _ _
    · exact ⟨_, step_idle hdis hpen⟩

/-! ### The frame of INT -/

section
variable {dA : Operand} {s t : State} {a b x : Resolved}

/-- An operand of usage `r` that resolved has a value. -/
theorem readsValue_of_resolve (h : resolve dA .r s = .ok x t) : ReadsValue dA s x.value t := by
  rw [ReadsValue, h]
  rw [resolve_r] at h
  obtain ⟨y, u, -, h⟩ := Res.bind_eq_ok.mp h
  obtain ⟨v, w, -, h⟩ := Res.bind_eq_ok.mp h
  cases h
  exact ⟨y.addr, rfl⟩

/-- Everything the rule of INT can do (46_system_io.md R364). -/
theorem intRule_cases (a b : Resolved) (s : State) :
    intRule a b s = .raise ⟨10, some a.value⟩ s ∨
    (a.value = s.params.softResetInt ∧ intRule a b s = .ok () s.softReset) ∨
    (a.value ≠ s.params.softResetInt ∧ intRule a b s = hostInterrupt a.value s) := by
  unfold intRule
  split
  · exact .inl rfl
  split
  · next hreset => exact .inr (.inl ⟨hreset, rfl⟩)
  · next hne => exact .inr (.inr ⟨hne, rfl⟩)

/-- The host's writes reach cells 0 to 13 alone (60_exceptions.md R412). -/
theorem applyWrites_keepsBut (s : State) (ws : List (Fin 14 × Word)) :
    KeepsBut (fun c => c < 14) s (s.applyWrites ws) :=
  ⟨fun _ hc => applyWrites_cell ws s (not_lt.mp hc), applyWrites_stack s ws, applyWrites_ip s ws,
    ⟨applyWrites_prevIp s ws, applyWrites_prog s ws, applyWrites_numTable s ws, applyWrites_alnumTable s ws,
      applyWrites_params s ws, applyWrites_pending s ws, applyWrites_hostClock s ws⟩⟩

theorem hostInterrupt_keepsBut (n : Int) (s : State) : KeepsBut (fun c => c < 14) s (hostInterrupt n s).state := by
  cases h : s.now.interrupt with
  | ok ws =>
    rw [hostInterrupt_ok h]
    exact (call_keepsBut _ s _).trans (applyWrites_keepsBut _ ws)
  | err k =>
    rw [hostInterrupt_err h]
    exact call_keepsBut _ s _

theorem intRule_keepsBut (hne : a.value ≠ s.params.softResetInt) :
    KeepsBut (fun c => c < 14) s (intRule a b s).state := by
  obtain h | ⟨hreset, -⟩ | ⟨-, h⟩ := intRule_cases a b s
  · rw [h]
    exact .refl _ s
  · exact absurd hreset hne
  · rw [h]
    exact hostInterrupt_keepsBut _ s

theorem SameFixtures.refl (s : State) : SameFixtures s s := ⟨rfl, rfl, rfl, rfl, rfl, rfl, rfl⟩

theorem softReset_fixtures (s : State) : SameFixtures s s.softReset := ⟨rfl, rfl, rfl, rfl, rfl, rfl, rfl⟩

theorem intRule_fixtures (a b : Resolved) (s : State) : SameFixtures s (intRule a b s).state := by
  obtain h | ⟨-, h⟩ | ⟨-, h⟩ := intRule_cases a b s <;> rw [h]
  · exact .refl s
  · exact softReset_fixtures s
  · exact (hostInterrupt_keepsBut _ s).fixtures

theorem exec_int_fixtures (h : exec (.int dA) s = .next t) : SameFixtures s t := by
  obtain ⟨x, y, hread, hy, hend⟩ := runInstr_stages (opc := .int) h
  have hxy : SameFixtures x y := by
    obtain rfl | ⟨a, b, rfl⟩ := hy
    · exact .refl y
    · exact intRule_fixtures a b x
  exact ((hread.keepsBut fun _ => False).fixtures.trans hxy).trans (hend fun _ => False).fixtures

/-- Unless its operand reads the software reset, INT writes where the host's writes reach. -/
theorem exec_int_keepsBut (hne : ¬ ∃ u, ReadsValue dA s s.params.softResetInt u) (h : exec (.int dA) s = .next t) :
    KeepsBut (fun c => c < 14) s t := by
  refine runInstr_keepsBut (opc := .int) h fun a b v x hA hB => intRule_keepsBut fun hreset => hne ⟨v, ?_⟩
  have hread := ((resolve_readsOnly dA _ s).of_ok hA).trans ((resolve_readsOnly .unused _ v).of_ok hB)
  rw [← hread.params, ← hreset]
  exact readsValue_of_resolve hA

end

/-! ### What a result keeps where it raises -/

/-- Where `r` raised, what changed since `s` is what `KeepsBut p` allows. -/
def FaultKeeps {α : Type} (p : Nat → Prop) (s : State) (r : Res α) : Prop :=
  ∀ e t, r = .raise e t → KeepsBut p s t

section
variable {α β : Type} {p : Nat → Prop} {s t : State} {r : Res α}

theorem FaultKeeps.ok {a : α} : FaultKeeps p s (.ok a t) := by
  intro e u h
  cases h

theorem FaultKeeps.of_keepsBut (h : KeepsBut p s r.state) : FaultKeeps p s r := by
  rintro e t rfl
  exact h

theorem FaultKeeps.of_state_eq (h : r.state = s) : FaultKeeps p s r :=
  .of_keepsBut ((readsOnly_of_state_eq h).keepsBut p)

/-- A part after another raises having kept what was kept up to it. -/
theorem FaultKeeps.bind {f : α → State → Res β} (h : FaultKeeps p s r)
    (hf : ∀ a t, r = .ok a t → FaultKeeps p s (f a t)) : FaultKeeps p s (r.bind f) := by
  cases r with
  | ok a t => exact hf a t rfl
  | raise e t =>
    rintro e' t' ⟨⟩
    exact h e t rfl

/-- A check or a lookup before another part only decides whether that part runs. -/
theorem FaultKeeps.bind_of_state_eq {f : α → State → Res β} (h : r.state = s) (hf : ∀ a, FaultKeeps p s (f a s)) :
    FaultKeeps p s (r.bind f) := by
  refine FaultKeeps.bind (.of_state_eq h) fun a t hr => ?_
  obtain rfl : t = s := by rwa [hr] at h
  exact hf a

/-! ### The shared rules where they raise -/

theorem writeBack_faultKeeps (x : Resolved) (v : Word) (t : State) : FaultKeeps p s (writeBack x v t) := by
  unfold writeBack
  split <;> exact .ok

theorem jumpTo_faultKeeps (h : KeepsBut p s t) (d : Operand) (n : Int) : FaultKeeps p s (jumpTo d n t) := by
  refine FaultKeeps.bind (.of_keepsBut ?_) fun _ _ _ => .ok
  rw [jumpTarget_state]
  exact h

theorem memWrite_faultKeeps (a : Int) (v : Word) (s : State) : FaultKeeps p s (memWrite a v s) :=
  .bind_of_state_eq (checkWritable_state a s) fun _ => .ok

theorem pushWord_faultKeeps (v : Word) (s : State) : FaultKeeps p s (pushWord v s) := by
  obtain ⟨-, h⟩ | ⟨-, -, h⟩ := pushWord_cases v s <;> rw [h]
  · exact .of_state_eq rfl
  · exact .ok

theorem popWord_faultKeeps (s : State) : FaultKeeps p s (popWord s) := by
  obtain ⟨-, h⟩ | ⟨-, -, h⟩ := popWord_cases s <;> rw [h]
  · exact .of_state_eq rfl
  · exact .ok

theorem portOut_keepsBut (p : Nat → Prop) (port v : Int) (s : State) : KeepsBut p s (portOut port v s).state := by
  unfold portOut
  split <;> exact call_keepsBut p s _

/-- The host's error comes without writes (60_exceptions.md R412). -/
theorem hostInterrupt_faultKeeps (n : Int) (s : State) : FaultKeeps p s (hostInterrupt n s) := by
  cases h : s.now.interrupt with
  | ok ws =>
    rw [hostInterrupt_ok h]
    exact .ok
  | err k =>
    rw [hostInterrupt_err h]
    exact .of_keepsBut (call_keepsBut p s _)

end

/-! ### The rules of the instructions where they raise -/

/-- The rule writes no cell but those `p` names before it raises, whatever its operands resolved to. -/
def RuleFaultKeeps (p : Nat → Prop) (rule : Resolved → Resolved → State → Res Unit) : Prop :=
  ∀ a b s, FaultKeeps p s (rule a b s)

section
variable {p : Nat → Prop}

theorem writeA_ruleFaultKeeps (f : Int → Int → Word) : RuleFaultKeeps p (writeA f) :=
  fun a _ s => writeBack_faultKeeps a _ s

theorem divideA_ruleFaultKeeps (f : Int → Int → Int) : RuleFaultKeeps p (divideA f) := by
  intro a b s
  unfold divideA
  split
  · exact .of_state_eq rfl
  · exact writeBack_faultKeeps a _ s

theorem jumpIf_ruleFaultKeeps (cond : Word → Bool) (d : Operand) : RuleFaultKeeps p (jumpIf cond d) := by
  intro a b s
  unfold jumpIf
  split
  · exact jumpTo_faultKeeps (.refl p s) d _
  · exact .ok

theorem jumpToIndex_ruleFaultKeeps : RuleFaultKeeps p jumpToIndex := by
  intro a b s
  unfold jumpToIndex
  split
  · exact .of_state_eq rfl
  · exact .ok

theorem xchgRule_ruleFaultKeeps : RuleFaultKeeps p xchgRule :=
  fun a b s => (writeBack_faultKeeps a _ s).bind fun _ t _ => writeBack_faultKeeps b _ t

theorem getRule_ruleFaultKeeps : RuleFaultKeeps p getRule :=
  fun a b s => FaultKeeps.bind (.of_keepsBut ((memRead_readsOnly b.value s).keepsBut p)) fun v t _ =>
    writeBack_faultKeeps a v t

/-- The target of CALL is looked up before the push writes (44_subroutine_loop_stack.md R300). -/
theorem callRule_ruleFaultKeeps (d : Operand) : RuleFaultKeeps p (callRule d) :=
  fun a _ s => .bind_of_state_eq (jumpTarget_state d a.value s) fun _ =>
    (pushWord_faultKeeps _ s).bind fun _ _ _ => .ok

/-- RET has popped when it finds the link outside the program (60_exceptions.md R404). -/
theorem retRule_ruleFaultKeeps (hsp : p 7) : RuleFaultKeeps p retRule := by
  refine fun a b s => (popWord_faultKeeps s).bind fun r t hpop => ?_
  have hkeeps := popWord_keepsBut hsp s
  rw [hpop] at hkeeps
  split
  · exact .of_keepsBut hkeeps
  · exact .ok

theorem popRule_ruleFaultKeeps : RuleFaultKeeps p popRule :=
  fun a _ s => (popWord_faultKeeps s).bind fun v t _ => writeBack_faultKeeps a v t

/-- LOOP has written CX when its label is not found (60_exceptions.md R404). -/
theorem loopRule_ruleFaultKeeps (hcx : p 3) (d : Operand) : RuleFaultKeeps p (loopRule d) := by
  intro a b s
  unfold loopRule
  dsimp only
  split
  · exact jumpTo_faultKeeps (setCell_keepsBut hcx s _) d _
  · exact .ok

theorem intRule_ruleFaultKeeps : RuleFaultKeeps p intRule := by
  intro a b s
  obtain h | ⟨-, h⟩ | ⟨-, h⟩ := intRule_cases a b s <;> rw [h]
  · exact .of_state_eq rfl
  · exact .ok
  · exact hostInterrupt_faultKeeps _ s

theorem ipoRule_ruleFaultKeeps : RuleFaultKeeps p ipoRule :=
  fun a b s => .bind_of_state_eq (checkPortIn_state a.value s) fun _ =>
    FaultKeeps.bind (.of_keepsBut (portIn_keepsBut p a.value s)) fun v t _ => writeBack_faultKeeps b v t

theorem opoRule_ruleFaultKeeps : RuleFaultKeeps p opoRule :=
  fun a b s => .bind_of_state_eq (checkPortOut_state a.value s) fun _ =>
    .of_keepsBut (portOut_keepsBut p a.value b.value s)

end

/-! ### What a faulting instruction keeps -/

/-- The cells that an instruction may have written when it faults: LOOP's CX and RET's SP (60_exceptions.md R404). -/
def faultCells (i : Instr) : Nat → Prop := fun c => (c = 3 ∧ ∃ d, i = .loop d) ∨ (c = 7 ∧ i = .ret)

/-- Every opcode's instruction is the stages of the step around a rule that keeps all but those cells where it raises. -/
theorem exec_instr_ruleFaultKeeps (o : Opcode) (dA dB : Operand) :
    ∃ x y rule, exec (o.instr dA dB) = runInstr o x y rule ∧ RuleFaultKeeps (faultCells (o.instr dA dB)) rule := by
  cases o with
  | add | sub | mpy | or | and | xor | shl | shr | rol | ror | sal | sar | inc | dec | neg | not =>
    exact ⟨_, _, _, rfl, writeA_ruleFaultKeeps _⟩
  | div | mod => exact ⟨_, _, _, rfl, divideA_ruleFaultKeeps _⟩
  | mov | loc => exact ⟨_, _, _, rfl, fun a _ s => writeBack_faultKeeps a _ s⟩
  | jls | jgr | jne | jeq | jz | jnz | jae | jbe => exact ⟨_, _, _, rfl, jumpIf_ruleFaultKeeps _ dA⟩
  | jmp => exact ⟨_, _, _, rfl, fun _ _ s => jumpTo_faultKeeps (.refl _ s) dA _⟩
  | jtl => exact ⟨_, _, _, rfl, jumpToIndex_ruleFaultKeeps⟩
  | call => exact ⟨_, _, _, rfl, callRule_ruleFaultKeeps dA⟩
  | ret => exact ⟨.unused, .unused, _, rfl, retRule_ruleFaultKeeps (.inr ⟨rfl, rfl⟩)⟩
  | push => exact ⟨_, _, _, rfl, fun _ _ s => pushWord_faultKeeps _ s⟩
  | pop => exact ⟨_, _, _, rfl, popRule_ruleFaultKeeps⟩
  | loop => exact ⟨_, _, _, rfl, loopRule_ruleFaultKeeps (.inl ⟨rfl, dA, rfl⟩) dA⟩
  | xchg => exact ⟨_, _, _, rfl, xchgRule_ruleFaultKeeps⟩
  | get => exact ⟨_, _, _, rfl, getRule_ruleFaultKeeps⟩
  | put => exact ⟨_, _, _, rfl, fun _ _ s => memWrite_faultKeeps _ _ s⟩
  | nop => exact ⟨.unused, .unused, fun _ _ s => .ok () s, rfl, fun _ _ _ => .ok⟩
  | delay | doCx | cmp | test => exact ⟨_, _, _, rfl, fun _ _ _ => .ok⟩
  | err => exact ⟨_, _, _, rfl, fun _ _ _ => .of_state_eq rfl⟩
  | int => exact ⟨_, _, _, rfl, intRule_ruleFaultKeeps⟩
  | ipo => exact ⟨_, _, _, rfl, ipoRule_ruleFaultKeeps⟩
  | opo => exact ⟨_, _, _, rfl, opoRule_ruleFaultKeeps⟩

section
variable {p : Nat → Prop} {s t : State} {cur : Nat} {e : RuntimeError}

/-- An instruction that ended as faulted took the one shared operation of faults, from a state that keeps what its rule
keeps: every other end is an execution. -/
theorem runInstr_faulted {opc : Opcode} {dA dB : Operand} {rule : Resolved → Resolved → State → Res Unit}
    (h : runInstr opc dA dB rule s = .next t) (hout : t.outcome = some (.faulted cur e))
    (hrule : RuleFaultKeeps p rule) : ∃ y arg, KeepsBut p s y ∧ t = y.runtimeError (some opc) arg e := by
  obtain ⟨w, -, rfl⟩ | ⟨-, e', v, hA, rfl⟩ | ⟨-, a, v, hA, hB⟩ := runInstr_cases h
  · cases hout
    exact ⟨s, none, .refl p s, rfl⟩
  · cases hout
    exact ⟨v, none, ((resolve_readsOnly dA _ s).of_raise hA).keepsBut p, rfl⟩
  · have hsv := (resolve_readsOnly dA _ s).of_ok hA
    obtain ⟨e', x, hB, rfl⟩ | ⟨b, x, hB, rfl⟩ := hB
    · cases hout
      exact ⟨x, a.val, (hsv.trans ((resolve_readsOnly dB _ v).of_raise hB)).keepsBut p, rfl⟩
    · have hsx := (hsv.trans ((resolve_readsOnly dB _ v).of_ok hB)).keepsBut p
      cases hr : rule a b x with
      | ok _ y =>
        rw [hr] at hout
        cases hout
      | raise e' y =>
        rw [hr] at hout
        cases hout
        exact ⟨y, a.val, hsx.trans (hrule a b x e y hr), rfl⟩

/-- A faulting instruction names the index that `prev_ip` holds and keeps all but its `faultCells`. -/
theorem exec_faulted {i : Instr} (h : exec i s = .next t) (hout : t.outcome = some (.faulted cur e)) :
    cur = s.prevIp ∧ KeepsBut (faultCells i) s t := by
  obtain ⟨o, dA, dB, rfl⟩ | ⟨w, b, rfl | rfl⟩ := eq_instr_or_marker i
  · obtain ⟨x, y, rule, hexec, hrule⟩ := exec_instr_ruleFaultKeeps o dA dB
    rw [hexec] at h
    obtain ⟨u, arg, hkeeps, rfl⟩ := runInstr_faulted h hout hrule
    cases hout
    exact ⟨hkeeps.fixtures.prevIp, hkeeps.trans (runtimeError_keepsBut _ u _ arg e)⟩
  · cases h
    cases hout
  · cases h
    cases hout

end

/-! ### The obligations of the family 60_exceptions.md -/

/-- Settles O17: of the invariant only `ip`'s bound is needed, since the fetch alone could leave the machine. -/
theorem stepHasNextState : Obligations.StepHasNextState := fun _ hs => step_next hs.ip

/-- Settles O57: every case of INT's rule keeps the fixtures, and all but the software reset keep the cells from 14 on. -/
theorem frameOfInt : Obligations.FrameOfInt := by
  intro dA s t h
  refine ⟨exec_int_fixtures h, fun hne => ?_⟩
  obtain ⟨hcells, hstack, hip, -⟩ := exec_int_keepsBut hne h
  exact ⟨hcells, hstack, hip⟩

/-- Settles O58, by what a faulting instruction keeps. -/
theorem faultKeepsState : Obligations.FaultKeepsState := by
  intro i s t cur e h hout
  obtain ⟨hcur, hcells, hstack, hip, hfix⟩ := exec_faulted h hout
  exact ⟨hcur, hip, hstack, hfix, hcells⟩

end Sys2Proof.Machine
end

section
/-! PROOFS of the family 70_reset_and_hazards.md and of the records the spec writes out. A turn ends because `stepsToIdle`
falls at each step that is not idle and never exceeds `MICRO_LIMIT * N`: an instruction that leaves nothing owed counts
in `micro`, which no rule touches, and a label marker brings the trailing NOP nearer. -/

namespace Sys2Proof.Machine

/-! ### The resets -/

/-- Settles O18: an empty memory and stack, and the launch premise and bounds of the one-record program. -/
theorem resetMeetsInvariant : Obligations.ResetMeetsInvariant where
  launch := by decide
  ip := Nat.zero_lt_one
  prevIp := Nat.zero_lt_one
  micro := by decide
  mem := reset_mem_wf
  stack := Cells.wf_nil _

/-- Settles O19: unlisted cells read 0, and the registers of the engine are 0 by definition. -/
theorem resetValues : Obligations.ResetValues := ⟨Cells.get_nil, Cells.get_nil, rfl, rfl, rfl, rfl⟩

/-- Settles O20: zeroed or not, `Reset` replaces the four registers of the engine; only zeroing replaces the cells. -/
theorem wrapperResetValues : Obligations.WrapperResetValues := by
  intro s zero
  cases zero with
  | true => exact ⟨rfl, rfl, rfl, rfl, fun _ c => ⟨Cells.get_nil c, Cells.get_nil c⟩, nofun, rfl, rfl, rfl⟩
  | false => exact ⟨rfl, rfl, rfl, rfl, nofun, fun _ => ⟨rfl, rfl⟩, rfl, rfl, rfl⟩

/-! ### The records of the test vectors -/

/-- Settles O5: each record is what the encoder makes of its instruction, which the decoder gives back. -/
theorem specRecordsDecode : Obligations.SpecRecordsDecode :=
  ⟨decodeOfEncode (.mov ⟨1, .indirectOne, false⟩ ⟨3, .literal, false⟩),
    decodeOfEncode (.add ⟨1, .indirectOne, false⟩ ⟨4, .literal, false⟩),
    decodeOfEncode (.jmp ⟨0, .numericJump, false⟩),
    decodeOfEncode (.ipo ⟨2, .literal, false⟩ ⟨1, .indirectOne, false⟩),
    decodeOfEncode (.int ⟨2, .literal, false⟩), decodeOfEncode (.numericLabel 1 false)⟩

/-! ### The shared rules leave `micro` to the commit -/

theorem micro_bind {α β : Type} {r : Res α} {f : α → State → Res β} {n : Nat} (h : r.state.micro = n)
    (hf : ∀ a t, (f a t).state.micro = t.micro) : (r.bind f).state.micro = n := by
  cases r with
  | ok a t => exact (hf a t).trans h
  | raise e t => exact h

theorem ReadsOnly.micro {s t : State} (h : ReadsOnly s t) : t.micro = s.micro := by
  obtain ⟨as, rfl⟩ := h
  rfl

theorem writeBack_micro (x : Resolved) (v : Word) (s : State) : (writeBack x v s).state.micro = s.micro := by
  unfold writeBack; split <;> rfl

theorem memWrite_micro (a : Int) (v : Word) (s : State) : (memWrite a v s).state.micro = s.micro :=
  micro_bind (congrArg State.micro (checkWritable_state a s)) fun _ _ => rfl

theorem pushWord_micro (v : Word) (s : State) : (pushWord v s).state.micro = s.micro := by
  obtain ⟨-, h⟩ | ⟨-, -, h⟩ := pushWord_cases v s <;> rw [h] <;> rfl

theorem popWord_micro (s : State) : (popWord s).state.micro = s.micro := by
  obtain ⟨-, h⟩ | ⟨-, -, h⟩ := popWord_cases s <;> rw [h] <;> rfl

theorem jumpTarget_micro (d : Operand) (n : Int) (s : State) : (jumpTarget d n s).state.micro = s.micro :=
  congrArg State.micro (jumpTarget_state d n s)

theorem jumpTo_micro (d : Operand) (n : Int) (s : State) : (jumpTo d n s).state.micro = s.micro :=
  micro_bind (jumpTarget_micro d n s) fun _ _ => rfl

theorem portIn_micro (p : Int) (s : State) : (portIn p s).state.micro = s.micro := by
  unfold portIn; split <;> rfl

theorem portOut_micro (p v : Int) (s : State) : (portOut p v s).state.micro = s.micro := by
  unfold portOut; split <;> rfl

theorem hostInterrupt_micro (n : Int) (s : State) : (hostInterrupt n s).state.micro = s.micro := by
  unfold hostInterrupt; split <;> simp

/-! ### The rules of the instructions leave `micro` to the commit -/

/-- The rule leaves `micro` as it was, whatever its operands resolved to. -/
def RuleKeepsMicro (rule : Resolved → Resolved → State → Res Unit) : Prop :=
  ∀ a b s, (rule a b s).state.micro = s.micro

theorem writeBackA_keepsMicro (v : Resolved → Resolved → State → Word) :
    RuleKeepsMicro fun a b s => writeBack a (v a b s) s :=
  fun a _ s => writeBack_micro a _ s

theorem writeA_keepsMicro (f : Int → Int → Word) : RuleKeepsMicro (writeA f) := fun a _ s => writeBack_micro a _ s

theorem divideA_keepsMicro (f : Int → Int → Int) : RuleKeepsMicro (divideA f) := by
  intro a b s
  unfold divideA
  split
  · rfl
  · exact writeBack_micro a _ s

theorem jumpIf_keepsMicro (cond : Word → Bool) (d : Operand) : RuleKeepsMicro (jumpIf cond d) := by
  intro a b s
  unfold jumpIf
  split
  · exact jumpTo_micro d _ s
  · rfl

theorem jumpToIndex_keepsMicro : RuleKeepsMicro jumpToIndex := by
  intro a b s
  unfold jumpToIndex
  split <;> rfl

theorem xchgRule_keepsMicro : RuleKeepsMicro xchgRule :=
  fun a b s => micro_bind (writeBack_micro a _ s) fun _ t => writeBack_micro b _ t

theorem getRule_keepsMicro : RuleKeepsMicro getRule :=
  fun a _ s => micro_bind (memRead_readsOnly _ s).micro fun v t => writeBack_micro a v t

theorem callRule_keepsMicro (d : Operand) : RuleKeepsMicro (callRule d) :=
  fun _ _ s => micro_bind (jumpTarget_micro d _ s) fun _ t => micro_bind (pushWord_micro _ t) fun _ _ => rfl

theorem retRule_keepsMicro : RuleKeepsMicro retRule := by
  refine fun _ _ s => micro_bind (popWord_micro s) fun r t => ?_
  split <;> rfl

theorem popRule_keepsMicro : RuleKeepsMicro popRule :=
  fun a _ s => micro_bind (popWord_micro s) fun v t => writeBack_micro a v t

theorem loopRule_keepsMicro (d : Operand) : RuleKeepsMicro (loopRule d) := by
  intro a b s
  unfold loopRule
  dsimp only
  split
  · exact jumpTo_micro d _ _
  · rfl

/-- The software reset too leaves `micro` to the commit of the INT (70_reset_and_hazards.md R452). -/
theorem intRule_keepsMicro : RuleKeepsMicro intRule := by
  intro a b s
  obtain h | ⟨-, h⟩ | ⟨-, h⟩ := intRule_cases a b s <;> rw [h]
  · rfl
  · rfl
  · exact hostInterrupt_micro _ s

theorem ipoRule_keepsMicro : RuleKeepsMicro ipoRule :=
  fun a b s => micro_bind (congrArg State.micro (checkPortIn_state a.value s)) fun _ t =>
    micro_bind (portIn_micro a.value t) fun v u => writeBack_micro b v u

theorem opoRule_keepsMicro : RuleKeepsMicro opoRule :=
  fun a b s => micro_bind (congrArg State.micro (checkPortOut_state a.value s)) fun _ t =>
    portOut_micro a.value b.value t

/-- The instruction of every opcode is the stages of the step around a rule that leaves `micro`. -/
theorem exec_instr_keepsMicro (o : Opcode) (dA dB : Operand) :
    ∃ x y rule, exec (o.instr dA dB) = runInstr o x y rule ∧ RuleKeepsMicro rule := by
  cases o with
  | add | sub | mpy | or | and | xor | shl | shr | rol | ror | sal | sar | inc | dec | neg | not =>
    exact ⟨_, _, _, rfl, writeA_keepsMicro _⟩
  | div | mod => exact ⟨_, _, _, rfl, divideA_keepsMicro _⟩
  | mov | loc => exact ⟨_, _, _, rfl, writeBackA_keepsMicro fun _ _ _ => _⟩
  | jls | jgr | jne | jeq | jz | jnz | jae | jbe => exact ⟨_, _, _, rfl, jumpIf_keepsMicro _ dA⟩
  | jmp => exact ⟨_, _, _, rfl, fun _ _ s => jumpTo_micro dA _ s⟩
  | jtl => exact ⟨_, _, _, rfl, jumpToIndex_keepsMicro⟩
  | call => exact ⟨_, _, _, rfl, callRule_keepsMicro dA⟩
  | ret => exact ⟨.unused, .unused, _, rfl, retRule_keepsMicro⟩
  | push => exact ⟨_, _, _, rfl, fun _ _ s => pushWord_micro _ s⟩
  | pop => exact ⟨_, _, _, rfl, popRule_keepsMicro⟩
  | loop => exact ⟨_, _, _, rfl, loopRule_keepsMicro dA⟩
  | xchg => exact ⟨_, _, _, rfl, xchgRule_keepsMicro⟩
  | put => exact ⟨_, _, _, rfl, fun _ _ s => memWrite_micro _ _ s⟩
  | get => exact ⟨_, _, _, rfl, getRule_keepsMicro⟩
  | nop => exact ⟨.unused, .unused, fun _ _ s => .ok () s, rfl, fun _ _ _ => rfl⟩
  | delay | err | doCx | cmp | test => exact ⟨_, _, _, rfl, fun _ _ _ => rfl⟩
  | int => exact ⟨_, _, _, rfl, intRule_keepsMicro⟩
  | ipo => exact ⟨_, _, _, rfl, ipoRule_keepsMicro⟩
  | opo => exact ⟨_, _, _, rfl, opoRule_keepsMicro⟩

/-! ### What an instruction that leaves nothing owed counts -/

/-- Where nothing is owed in `t`, `micro` has counted one more since `s` (40_execution_cycle.md R176). -/
def CountsFree (s t : State) : Prop := t.penalty = 0 → t.micro = s.micro + 1

section
variable {s t : State}

theorem commit_countsFree (s : State) (c : Nat) : CountsFree s (s.commit c) := by
  rw [commit_eq]
  intro hpen
  dsimp only at hpen ⊢
  split_ifs at hpen ⊢
  · rfl
  · contradiction

theorem executed_countsFree (s : State) (opc : Opcode) (arg : Option Int) : CountsFree s (s.executed opc arg) :=
  commit_countsFree s _

theorem runtimeError_countsFree (s : State) (opc : Option Opcode) (arg : Option Int) (e : RuntimeError) :
    CountsFree s (s.runtimeError opc arg e) :=
  commit_countsFree s _

theorem CountsFree.of_micro_eq {u : State} (h : CountsFree u t) (hu : u.micro = s.micro) : CountsFree s t :=
  fun hpen => hu ▸ h hpen

theorem finish_countsFree {r : Res Unit} (h : r.state.micro = s.micro) (opc : Opcode) (arg : Option Int) :
    CountsFree s (finish opc arg r) := by
  cases r with
  | ok _ t => exact (executed_countsFree t opc arg).of_micro_eq h
  | raise e t => exact (runtimeError_countsFree t _ arg e).of_micro_eq h

theorem runInstr_countsFree {opc : Opcode} {dA dB : Operand} {rule : Resolved → Resolved → State → Res Unit}
    (h : runInstr opc dA dB rule s = .next t) (hrule : RuleKeepsMicro rule) : CountsFree s t := by
  obtain ⟨w, -, rfl⟩ | ⟨-, e, u, hA, rfl⟩ | ⟨-, a, u, hA, hB⟩ := runInstr_cases h
  · exact runtimeError_countsFree s _ _ _
  · exact (runtimeError_countsFree u _ _ e).of_micro_eq ((resolve_readsOnly dA _ s).of_raise hA).micro
  · have hsu := (resolve_readsOnly dA _ s).of_ok hA
    obtain ⟨e, x, hB, rfl⟩ | ⟨b, x, hB, rfl⟩ := hB
    · have hsx := hsu.trans ((resolve_readsOnly dB _ u).of_raise hB)
      exact (runtimeError_countsFree x _ _ e).of_micro_eq hsx.micro
    · have hsx := hsu.trans ((resolve_readsOnly dB _ u).of_ok hB)
      exact finish_countsFree ((hrule a b x).trans hsx.micro) opc _

theorem exec_instr_countsFree {o : Opcode} {dA dB : Operand} (h : exec (o.instr dA dB) s = .next t) :
    CountsFree s t := by
  obtain ⟨x, y, rule, hexec, hrule⟩ := exec_instr_keepsMicro o dA dB
  rw [hexec] at h
  exact runInstr_countsFree h hrule

/-- Only the label markers end without a commit (40_execution_cycle.md R155), and the NOP is none. -/
theorem runDecoded_countsFree {d : Decoded} (h : runDecoded d s = .next t) :
    CountsFree s t ∨ (t = s.skipped ∧ d ≠ .instr .nop) := by
  cases d with
  | instr i =>
    obtain ⟨o, dA, dB, rfl⟩ | ⟨w, b, rfl | rfl⟩ := eq_instr_or_marker i
    · exact .inl (exec_instr_countsFree h)
    · cases h; exact .inr ⟨rfl, nofun⟩
    · cases h; exact .inr ⟨rfl, nofun⟩
  | reject why =>
    cases why with
    | reservedOpcodeNibble w0 => cases h; exact .inl (runtimeError_countsFree s _ _ _)
    | unknownOpcode opc => cases h; exact .inl (runtimeError_countsFree s _ _ _)
  | opcodeInMemory d0 dA dB =>
    have hread := resolveOpcode_readsOnly d0 s
    left
    cases hr : resolveOpcode d0 s with
    | raise e u =>
      cases (runDecoded_opcodeInMemory_raise hr).symm.trans h
      exact (runtimeError_countsFree u _ _ e).of_micro_eq (hread.of_raise hr).micro
    | ok n u =>
      refine CountsFree.of_micro_eq ?_ (hread.of_ok hr).micro
      cases ho : Opcode.ofNumber n with
      | none => cases (runDecoded_opcodeInMemory_unknown hr ho).symm.trans h; exact runtimeError_countsFree u _ _ _
      | some o => exact exec_instr_countsFree ((runDecoded_opcodeInMemory_ok hr ho).symm.trans h)

/-! ### The bound on the steps before an idle one -/

/-- A record that is not the NOP is not the last one (70_reset_and_hazards.md R456). -/
theorem succ_lt_of_ne_nop {i : Nat} {r : Record} (hs : s.launchPremise = true) (hr : s.prog[i]? = some r)
    (hne : r ≠ Record.nop) : i + 1 < s.prog.length := by
  simp only [State.launchPremise, Bool.and_eq_true, beq_iff_eq] at hs
  obtain ⟨⟨hlast, -⟩, -⟩ := hs
  obtain ⟨hi, -⟩ := List.getElem?_eq_some_iff.mp hr
  have hne' : i ≠ s.prog.length - 1 := by
    rintro rfl
    rw [List.getLast?_eq_getElem?, hr] at hlast
    exact hne (Option.some.inj hlast)
  omega

/-- How many steps there can be before an idle one (40_execution_cycle.md R178): none where a cycle is owed; otherwise
those to the end of the program for this instruction and `N` for each one more that may be free. -/
def stepsToIdle (s : State) : Nat :=
  if s.penalty = 0 then (microLimit - 1 - s.micro) * s.prog.length + (s.prog.length - s.ip) else 0

theorem stepsToIdle_of_free (h : s.penalty = 0) :
    stepsToIdle s = (microLimit - 1 - s.micro) * s.prog.length + (s.prog.length - s.ip) := if_pos h

theorem stepsToIdle_of_owed (h : s.penalty ≠ 0) : stepsToIdle s = 0 := if_neg h

theorem stepsToIdle_le (s : State) : stepsToIdle s ≤ microLimit * s.prog.length := by
  by_cases h : s.penalty = 0
  · rw [stepsToIdle_of_free h]
    calc (microLimit - 1 - s.micro) * s.prog.length + (s.prog.length - s.ip)
        ≤ (microLimit - 1) * s.prog.length + s.prog.length :=
          Nat.add_le_add (Nat.mul_le_mul_right _ (Nat.sub_le _ _)) (Nat.sub_le _ _)
      _ = microLimit * s.prog.length := (Nat.succ_mul (microLimit - 1) _).symm
  · rw [stepsToIdle_of_owed h]
    exact Nat.zero_le _

theorem stepsToIdle_pos (hs : s.Inv) (h : s.penalty = 0) : 0 < stepsToIdle s := by
  have hip := hs.ip
  rw [stepsToIdle_of_free h]
  omega

/-- An instruction that counts in `micro` has used up `N` of the steps, wherever it goes on. -/
theorem stepsToIdle_lt_of_countsFree (hs : s.Inv) (ht : t.Inv) (hpen : s.penalty = 0) (hprog : t.prog = s.prog)
    (h : CountsFree s t) : stepsToIdle t < stepsToIdle s := by
  by_cases hfree : t.penalty = 0
  · have hmicro := h hfree
    have hlim := ht.micro
    have hip := hs.ip
    have hleft : microLimit - 1 - s.micro = (microLimit - 1 - t.micro) + 1 := by omega
    rw [stepsToIdle_of_free hfree, stepsToIdle_of_free hpen, hprog, hleft, Nat.succ_mul]
    omega
  · rw [stepsToIdle_of_owed hfree]
    exact stepsToIdle_pos hs hpen

/-- A label marker that is passed leaves the records after it. -/
theorem stepsToIdle_lt_of_skipped (hpen : s.penalty = 0) (hend : s.ip + 1 < s.prog.length) :
    stepsToIdle s.beginStep.fetched.skipped < stepsToIdle s := by
  rw [stepsToIdle_of_free hpen, stepsToIdle_of_free (by simpa using hpen)]
  simp only [skipped_micro, skipped_prog, skipped_ip, fetched_micro, fetched_prog, fetched_ip, beginStep_micro,
    beginStep_prog, beginStep_ip, Nat.mod_eq_of_lt hend]
  omega

/-- A step ends the turn, spends a cycle, or brings the next idle step nearer. -/
theorem step_stopped_idle_or_nearer (hs : s.Inv) (h : step s = .next t) :
    t.outcome = some .stopped ∨ t.outcome = some .idle ∨ stepsToIdle t < stepsToIdle s := by
  cases hdis : s.beginStep.now.disabled with
  | true => cases (step_disabled hdis).symm.trans h; exact .inl rfl
  | false =>
    obtain hpen | hpen := Nat.eq_zero_or_pos s.penalty
    · have hpres := step_preserves h
      have hr := List.getElem?_eq_getElem hs.ip
      rw [step_fetch hdis hpen hr] at h
      refine .inr (.inr ?_)
      obtain hfree | ⟨rfl, hnop⟩ := runDecoded_countsFree h
      · exact stepsToIdle_lt_of_countsFree hs (hpres.inv hs) hpen hpres.prog (hfree.of_micro_eq (by simp))
      · have hne : s.prog[s.ip]'hs.ip ≠ Record.nop := fun heq => hnop (by rw [heq]; rfl)
        exact stepsToIdle_lt_of_skipped hpen (succ_lt_of_ne_nop hs.launch hr hne)
    · cases (step_idle hdis hpen).symm.trans h; exact .inr (.inl rfl)

/-! ### The turn -/

/-- Everything a turn does with one step (70_reset_and_hazards.md R462). -/
theorem runTurn_step (fuel left : Nat) (h : step s = .next t) :
    runTurn (fuel + 1) (left + 1) s = (.disabled, t) ∨
    (t.outcome = some .idle ∧ runTurn (fuel + 1) (left + 1) s = runTurn fuel left t) ∨
    (∃ cur e, t.params.errorPolicy = .stopTurn ∧ runTurn (fuel + 1) (left + 1) s = (.error cur e, t)) ∨
    (t.outcome ≠ some .stopped ∧ t.outcome ≠ some .idle ∧
      runTurn (fuel + 1) (left + 1) s = runTurn fuel (left + 1) t) := by
  simp only [runTurn, h]
  cases hout : t.outcome with
  | none => exact .inr (.inr (.inr ⟨nofun, nofun, rfl⟩))
  | some o =>
    cases o with
    | stopped => exact .inl rfl
    | idle => exact .inr (.inl ⟨rfl, rfl⟩)
    | skipped cur => exact .inr (.inr (.inr ⟨nofun, nofun, rfl⟩))
    | executed cur opc => exact .inr (.inr (.inr ⟨nofun, nofun, rfl⟩))
    | faulted cur e =>
      cases hpol : t.params.errorPolicy with
      | stopTurn => exact .inr (.inr (.inl ⟨cur, e, rfl, rfl⟩))
      | continueOn => exact .inr (.inr (.inr ⟨nofun, nofun, rfl⟩))

/-- The turn from `s` ended in one of the three ways of 70_reset_and_hazards.md R463, with an error only under
`StopTurn`. -/
def EndsRegularly (s : State) (r : TurnEnd × State) : Prop :=
  r.1.isRegular = true ∧ ∀ cur e, r.1 = .error cur e → s.params.errorPolicy = .stopTurn

theorem EndsRegularly.of_params_eq {r : TurnEnd × State} (h : EndsRegularly t r) (hp : t.params = s.params) :
    EndsRegularly s r := by
  unfold EndsRegularly
  rw [← hp]
  exact h

end

/-- A turn ends regularly where its bound leaves, for each cycle of the budget, the steps up to an idle one: of those
before the first idle step only `stepsToIdle` are needed. -/
theorem runTurn_endsRegularly (fuel left : Nat) (s : State) (hs : s.Inv)
    (hbound : stepsToIdle s + left * (microLimit * s.prog.length + 1) ≤ fuel + microLimit * s.prog.length) :
    EndsRegularly s (runTurn fuel left s) := by
  induction fuel generalizing left s with
  | zero =>
    cases left with
    | zero => exact ⟨rfl, nofun⟩
    | succ left => rw [Nat.succ_mul] at hbound; omega
  | succ fuel ih =>
    cases left with
    | zero => exact ⟨rfl, nofun⟩
    | succ left =>
      obtain ⟨t, hstep⟩ := step_next hs.ip
      have hpres := step_preserves hstep
      have ht := hpres.inv hs
      obtain hrun | ⟨-, hrun⟩ | ⟨cur, e, hpol, hrun⟩ | ⟨hstop, hidle, hrun⟩ := runTurn_step fuel left hstep <;>
        rw [hrun]
      · exact ⟨rfl, nofun⟩
      · have hle := stepsToIdle_le t
        refine (ih left t ht ?_).of_params_eq hpres.params
        rw [hpres.prog] at hle ⊢
        rw [Nat.succ_mul] at hbound
        omega
      · exact ⟨rfl, fun _ _ _ => hpres.params ▸ hpol⟩
      · obtain h | h | hlt := step_stopped_idle_or_nearer hs hstep
        · exact absurd h hstop
        · exact absurd h hidle
        · refine (ih (left + 1) t ht ?_).of_params_eq hpres.params
          rw [hpres.prog]
          omega

/-- Settles O21: R463's bound is what a turn needs, since no state is further than `MICRO_LIMIT * N` from an idle step. -/
theorem turnAlwaysEnds : Obligations.TurnAlwaysEnds := by
  intro s b hs
  refine runTurn_endsRegularly (turnBound s b) b s hs ?_
  have hle := stepsToIdle_le s
  unfold turnBound
  omega

end Sys2Proof.Machine
end
